-- ==== Sys2Proof/Word.lean ====
section
/-! DEFINITION. The two word types of the block: a byte and a 32-bit operand (00_scope.md R10). -/

namespace Sys2Proof

/-- A byte, 8 bits, an unsigned number 0 .. 255 (R10). -/
abbrev Byte := BitVec 8

/-- The bit pattern of an `i32`, two's complement (R10). -/
abbrev Word32 := BitVec 32

end Sys2Proof
end

