-- ==== Sys2Proof/Config.lean ====
section
/-! DEFINITION. The parameters of Table P1 (00_scope.md R8) and the one free value of the model. -/

namespace Sys2Proof

namespace Config

/-- STX, the frame start byte (Table P1). -/
def stx : Byte := 0x02
/-- ETX, the frame end byte (Table P1). -/
def etx : Byte := 0x03
/-- ADDR_OFFSET, subtracted from the address byte (Table P1, R96). -/
def addrOffset : Nat := 10
/-- DIGIT_OFFSET, added to each base-128 digit (Table P1, R100). -/
def digitOffset : Nat := 32
/-- CSUM_FORCE, the bit forced into every checksum (Table P1, R95). -/
def csumForce : Byte := 0x80
/-- TIMEOUT_MS, the bound on each handshake wait (Table P1). -/
def timeoutMs : Nat := 1000
/-- MAX_ATTEMPTS, send and receive attempts per `XCV` (Table P1; 90_conflicts.md C3). -/
def maxAttempts : Nat := 3

/-- What a ring slot that nothing has written since reset reads as: any byte (10_state.md R22, R41;
93_implementation_defined.md U3). A free value: nothing constrains it (log 2). -/
opaque ringUnwritten : Nat → Byte

end Config

/-- The OPEN build parameters of Table P1 (R8, U8). An argument of the model: a state carries them and no step
changes them (log 1). -/
structure Params where
  /-- RING_N, slots in the ring (D7). -/
  ringN : Nat
  /-- FB_CAP, capacity of the frame buffer in bytes (D11). -/
  fbCap : Nat
  /-- MAX_FRAME, the transport's max frame size (D19). -/
  maxFrame : Nat
  /-- DATA_TERM, the trailing terminator byte of a data reply (D18). -/
  dataTerm : Byte
  /-- F_CLK, frequency of the block clock in Hz (D24). -/
  fClk : Nat
  /-- SETUP_CYCLES, cycles data is driven before the clock is asserted (D25). -/
  setupCycles : Nat
  /-- ACK_PULSE_CYCLES, width of the receive acknowledge pulse (D25). -/
  ackPulseCycles : Nat
  /-- RETRY_GAP_CYCLES, idle cycles between two attempts (D25). -/
  retryGapCycles : Nat
  deriving DecidableEq, Repr

/-- The legal ranges of Table P1 (R8). -/
abbrev Params.Legal (p : Params) : Prop :=
  2 ≤ p.ringN ∧ p.ringN ≤ 256 ∧ 5 ≤ p.fbCap ∧ p.fbCap ≤ 255 ∧ 80 ≤ p.maxFrame ∧ p.maxFrame ≤ 254 ∧
    1000 ≤ p.fClk ∧ 1 ≤ p.setupCycles ∧ 1 ≤ p.ackPulseCycles ∧ 1 ≤ p.retryGapCycles

/-- The parameter values of `State.reset`: the example values of 95_test_vectors.md and the least legal timing
values. DESIGN CHOICE (log 1): the spec leaves every one of them open, and no statement rests on them. -/
def Params.resetChoice : Params :=
  { ringN := 4, fbCap := 16, maxFrame := 80, dataTerm := 0x0D, fClk := 1000, setupCycles := 1,
    ackPulseCycles := 1, retryGapCycles := 1 }

end Sys2Proof
end

