-- ==== Sys2Proof/Syntax.lean ====
section
/-! DEFINITION. The twelve operations of Table E4 (30_encoding.md R88), one constructor per row of
spec/opcode_table.json, and the two message ports. -/

namespace Sys2Proof

/-- The two message ports (R80): CP is the host's, WP the producer's. -/
inductive PortId where
  | cp
  | wp
  deriving DecidableEq, Repr

/-- One request (R82, R83). A format W operand is the pattern of an `i32`, a format D operand five digits with `d0`
the most significant, a format L operand a byte list of at most 255 bytes (R84, R85). -/
inductive Instr where
  | rbwr (b : Byte)
  | rbdrain
  | rbstat
  | enc (v : Word32)
  | dec (d0 d1 d2 d3 d4 : Byte)
  | fbpush (xs : List Byte)
  | validate
  | fbclear
  | bval (v : Word32)
  | bdata (xs : List Byte)
  | xcv (f : List Byte)
  | stat
  deriving DecidableEq, Repr

end Sys2Proof
end

