-- ==== Sys2Proof/Machine/State.lean ====
section
/-! DEFINITION. The state of the block (10_state.md), plain data, and its value after reset (Table S1). -/

namespace Sys2Proof.Machine

/-- The bus controller's states (44_bus_transport.md R211). -/
inductive Fsm where
  | idle
  | chkrdy
  | sDrive
  | sStrobe
  | sWack
  | sWrel
  | sTurn
  | rWstb
  | rAck
  | rWrel
  | eval
  | gap
  deriving DecidableEq, Repr

/-- The bus controller's registers (10_state.md R30 to R35). A line value `true` is 1. -/
structure Bus where
  /-- `fsm` (R30). -/
  fsm : Fsm
  /-- `clk_o`, the clock and local acknowledge line; 1 is deasserted (R31). -/
  clkO : Bool
  /-- `d_o`, the value driven on the data bus (R31). -/
  dO : Byte
  /-- `d_oe`, 1 when the block drives the data bus (R31). -/
  dOe : Bool
  /-- `tcnt`, the wait counter (R33; log 6). -/
  tcnt : Nat
  /-- `att`, the attempt number, 2 bits (R34). -/
  att : BitVec 2
  /-- `cause`, the status code of the last failed attempt, 0x00 when none failed (R34). -/
  cause : Byte
  /-- `txf`, the frame being sent (R35). -/
  txf : List Byte
  /-- `idx`, the index of the byte being sent (R35). -/
  idx : Nat
  /-- `rxr`, the reply being received (R35). -/
  rxr : List Byte
  deriving DecidableEq, Repr

/-- One message port (10_state.md R37, R38), with the issuer's side of its two streams as model data (log 3). -/
structure Port where
  /-- Request bytes the issuer offers and the port has not taken yet, oldest first (R81; model's own). -/
  inq : List Byte
  /-- The request decoder: the bytes of the current request collected so far; `[]` is `idle` (R37). -/
  dec : List Byte
  /-- `cp_busy` or `wp_busy` (R38). -/
  busy : Bool
  /-- The response serialiser: response bytes not delivered yet (R37). -/
  rsp : List Byte
  /-- Response bytes delivered to the issuer, oldest first (model's own). -/
  out : List Byte
  deriving DecidableEq, Repr

/-- What an agent outside the block does next (00_scope.md R7; log 3, log 4). -/
inductive Event where
  /-- The host presents a request byte on CP: one byte transfers if the port takes it (R81). -/
  | cpReq
  /-- The host takes a response byte on CP (R81). -/
  | cpRsp
  /-- The producer presents a request byte on WP (R81). -/
  | wpReq
  /-- The producer takes a response byte on WP (R81). -/
  | wpRsp
  /-- One cycle of `clk` of the bus controller; `rdy` is `rdy_i` and `d` is `d_i` in that cycle (R32, R212). -/
  | clk (rdy : Bool) (d : Byte)
  /-- One cycle with `rst = 1` (70_reset_and_hazards.md R310). -/
  | rst
  deriving DecidableEq, Repr

/-- The ring's written slots as (slot, byte) pairs, slots strictly rising (log 2). -/
abbrev Memory := List Host.Cell

/-- The state of the block (R42) with its build parameters and the environment's coming inputs. -/
structure State where
  /-- The build parameters (00_scope.md R8); no step changes them (log 1). -/
  params : Params
  /-- `ring` (R22). -/
  ring : Memory
  /-- `in_ptr` (R23). -/
  inPtr : Byte
  /-- `out_ptr` (R24). -/
  outPtr : Byte
  /-- `fbuf` (R29). -/
  fbuf : List Byte
  /-- The bus controller (R30 to R35). -/
  bus : Bus
  /-- `csum_err_cnt` (R36). -/
  csumErrCnt : BitVec 16
  /-- `timeout_cnt` (R36). -/
  timeoutCnt : BitVec 16
  /-- The command port (R37, R38). -/
  cp : Port
  /-- The write port (R37, R38). -/
  wp : Port
  /-- The environment's coming events, oldest first (model's own, log 3). -/
  env : List Event
  deriving DecidableEq, Repr

/-- Why a step stops. -/
inductive Fault where
  /-- An access to a ring slot that does not exist, `RING_N` or above (20_memory.md R60). Raised by the ring's one
  read and one write operation, only in states no run from reset reaches. Safe (log 8). -/
  | noSuchSlot (slot : Nat)
  deriving DecidableEq, Repr

/-- Why an instruction is refused. -/
inductive Refusal where
  /-- Raised by no arm: every row of the opcode table has its meaning. Safe. -/
  | notModelled (mnemonic : String)
  deriving DecidableEq, Repr

/-- The bus controller after reset (Table S1). -/
def Bus.reset : Bus :=
  { fsm := .idle, clkO := true, dO := 0x00, dOe := false, tcnt := 0, att := 0, cause := 0x00, txf := [], idx := 0,
    rxr := [] }

/-- A message port after reset: idle, no response pending, not busy (R37, R38). -/
def Port.reset : Port := { inq := [], dec := [], busy := false, rsp := [], out := [] }

/-- The block built with parameters `p`, right after reset (R41, R311), with nothing offered by its environment. -/
def State.resetWith (p : Params) : State :=
  { params := p, ring := [], inPtr := 0, outPtr := 0, fbuf := [], bus := Bus.reset, csumErrCnt := 0, timeoutCnt := 0,
    cp := Port.reset, wp := Port.reset, env := [] }

/-- The block right after reset. Its parameter values are the model's (log 1). -/
def State.reset : State := State.resetWith Params.resetChoice

end Sys2Proof.Machine
end

