-- ==== Sys2Proof/Machine/Flags.lean ====
section
/-! DEFINITION. The status codes (60_exceptions.md R280) and the ring's computed conditions (10_state.md R25 to R27).
The block has no flags register (R39). -/

namespace Sys2Proof.Machine

/-- The status codes of Table X1 (R280). -/
inductive Status where
  | ok
  | needMoreData
  | checksumMismatch
  | transportTimeout
  | peerNotReady
  | full
  | tooLong
  | badDigit
  | noncanonical
  | deviceUnreachable
  | illegalOpcode
  deriving DecidableEq, Repr

/-- The code byte of a status (Table X1). -/
def statusCode : Status → Byte
  | .ok => 0x00
  | .needMoreData => 0x01
  | .checksumMismatch => 0x02
  | .transportTimeout => 0x03
  | .peerNotReady => 0x04
  | .full => 0x05
  | .tooLong => 0x06
  | .badDigit => 0x07
  | .noncanonical => 0x08
  | .deviceUnreachable => 0x09
  | .illegalOpcode => 0x0F

/-- The ring is empty: `in_ptr = out_ptr` (R25). -/
def ringEmpty (s : State) : Bool := s.inPtr == s.outPtr

/-- The slot after `in_ptr`: `(in_ptr + 1) mod RING_N` (R26). -/
def nextIn (s : State) : Nat := (s.inPtr.toNat + 1) % s.params.ringN

/-- The ring is full: `(in_ptr + 1) mod RING_N = out_ptr` (R26). -/
def ringFull (s : State) : Bool := nextIn s == s.outPtr.toNat

/-- The unread bytes: `(in_ptr - out_ptr) mod RING_N`, exact integer arithmetic (R11, R27). -/
def ringCount (s : State) : Nat := (((s.inPtr.toNat : Int) - s.outPtr.toNat) % s.params.ringN).toNat

/-- The FLAGS byte of `RBSTAT`: bit 0 empty, bit 1 full, bits 7..2 zero (40_ring_buffer.md R124). -/
def ringFlags (s : State) : Byte := (if ringFull s then 0x02 else 0x00) ||| (if ringEmpty s then 0x01 else 0x00)

/-- `sat16(c + 1)`: a 16-bit event counter advances and stays at 0xFFFF (00_scope.md R11; R36). -/
def satIncr (c : BitVec 16) : BitVec 16 := if c = 0xFFFF then c else c + 1

/-- T, the number of samples a wait takes before it times out: `ceil(TIMEOUT_MS * F_CLK / 1000)` (Table P1,
44_bus_transport.md R214). -/
def timeoutCycles (p : Params) : Nat := (Config.timeoutMs * p.fClk + 999) / 1000

end Sys2Proof.Machine
end

