-- ==== Sys2Proof/WellFormed.lean ====
section
/-! DEFINITION. Which terms are requests: a format L list has a one-byte length (30_encoding.md R84). Every other
operand is legal at every value (R91). -/

namespace Sys2Proof

/-- R84: `LEN` is an unsigned byte 0 .. 255. -/
def lengthFits (xs : List Byte) : Bool := decide (xs.length ≤ 255)

/-- The well-formed requests. -/
def Instr.wellFormed : Instr → Bool
  | .rbwr _ => true
  | .rbdrain => true
  | .rbstat => true
  | .enc _ => true
  | .dec _ _ _ _ _ => true
  | .fbpush xs => lengthFits xs
  | .validate => true
  | .fbclear => true
  | .bval _ => true
  | .bdata xs => lengthFits xs
  | .xcv f => lengthFits f
  | .stat => true

end Sys2Proof
end

