-- ==== Sys2Proof/Decode.lean ====
section
/-! DEFINITION. Decoding a port's byte stream to requests, encoding requests, and the big-endian message fields
(20_memory.md R64; 30_encoding.md R82 to R93). -/

namespace Sys2Proof

/-! ### Message fields (R64) -/

/-- `be16`: a 16-bit field, high byte first (00_scope.md R12, R64). -/
def be16 (u : BitVec 16) : List Byte := [u.extractLsb' 8 8, u.extractLsb' 0 8]

/-- `be32`: a 32-bit field, most significant byte first (R12, R64). -/
def be32 (u : Word32) : List Byte :=
  [u.extractLsb' 24 8, u.extractLsb' 16 8, u.extractLsb' 8 8, u.extractLsb' 0 8]

/-- Operand assembly of format W: `W3 * 2^24 + W2 * 2^16 + W1 * 2^8 + W0` (R85). -/
def assembleW (w3 w2 w1 w0 : Byte) : Word32 := w3 ++ w2 ++ w1 ++ w0

/-- The one-byte length field of a list (R9, R84). -/
def lenByte (xs : List Byte) : Byte := BitVec.ofNat 8 xs.length

/-! ### Opcodes (Table E4) -/

/-- The opcode of an operation (Table E4). -/
def Instr.opcode : Instr → Byte
  | .rbwr _ => 0x10
  | .rbdrain => 0x11
  | .rbstat => 0x12
  | .enc _ => 0x20
  | .dec _ _ _ _ _ => 0x21
  | .fbpush _ => 0x30
  | .validate => 0x31
  | .fbclear => 0x32
  | .bval _ => 0x40
  | .bdata _ => 0x41
  | .xcv _ => 0x50
  | .stat => 0x60

/-- The port an operation can be issued on (R93). -/
def Instr.port : Instr → PortId
  | .rbwr _ => .wp
  | .rbdrain => .cp
  | .rbstat => .cp
  | .enc _ => .cp
  | .dec _ _ _ _ _ => .cp
  | .fbpush _ => .cp
  | .validate => .cp
  | .fbclear => .cp
  | .bval _ => .cp
  | .bdata _ => .cp
  | .xcv _ => .cp
  | .stat => .cp

/-! ### Decoding -/

/-- Why a port's bytes are not yet, or not, a request. -/
inductive DecodeError where
  /-- The bytes are the beginning of a request whose rest has not arrived (R82, R326). -/
  | incomplete
  /-- The opcode byte is not decoded on this port (R89, R90); it is a one-byte request (R262). -/
  | illegalOpcode (op : Byte)
  deriving DecidableEq, Repr

/-- A decoded request and the bytes after it. -/
abbrev Decoded := Except DecodeError (Instr × List Byte)

/-- Format B: one operand byte. -/
def decodeB (k : Byte → Instr) : List Byte → Decoded
  | b :: rest => .ok (k b, rest)
  | _ => .error .incomplete

/-- Format W: four operand bytes, most significant first (R85). -/
def decodeW (k : Word32 → Instr) : List Byte → Decoded
  | w3 :: w2 :: w1 :: w0 :: rest => .ok (k (assembleW w3 w2 w1 w0), rest)
  | _ => .error .incomplete

/-- Format D: five digit bytes (R85). -/
def decodeD (k : Byte → Byte → Byte → Byte → Byte → Instr) : List Byte → Decoded
  | d0 :: d1 :: d2 :: d3 :: d4 :: rest => .ok (k d0 d1 d2 d3 d4, rest)
  | _ => .error .incomplete

/-- Format L: a length byte and that many data bytes (R84). -/
def decodeL (k : List Byte → Instr) : List Byte → Decoded
  | len :: rest =>
    if len.toNat ≤ rest.length then .ok (k (rest.take len.toNat), rest.drop len.toNat) else .error .incomplete
  | _ => .error .incomplete

/-- The write port decodes only 0x10 (R89). -/
def decodeWp (op : Byte) (rest : List Byte) : Decoded :=
  if op = 0x10 then decodeB .rbwr rest
  else .error (.illegalOpcode op)

/-- The command port decodes the eleven other opcodes (R90). -/
def decodeCp (op : Byte) (rest : List Byte) : Decoded :=
  if op = 0x11 then .ok (.rbdrain, rest)
  else if op = 0x12 then .ok (.rbstat, rest)
  else if op = 0x20 then decodeW .enc rest
  else if op = 0x21 then decodeD .dec rest
  else if op = 0x30 then decodeL .fbpush rest
  else if op = 0x31 then .ok (.validate, rest)
  else if op = 0x32 then .ok (.fbclear, rest)
  else if op = 0x40 then decodeW .bval rest
  else if op = 0x41 then decodeL .bdata rest
  else if op = 0x50 then decodeL .xcv rest
  else if op = 0x60 then .ok (.stat, rest)
  else .error (.illegalOpcode op)

/-- The request at the front of a port's byte stream. The opcode alone determines the format (R82). -/
def decode (p : PortId) : List Byte → Decoded
  | [] => .error .incomplete
  | op :: rest =>
    match p with
    | .wp => decodeWp op rest
    | .cp => decodeCp op rest

/-! ### Encoding -/

/-- The bytes of a format L request (Table E2). -/
def encodeL (op : Byte) (xs : List Byte) : List Byte := op :: lenByte xs :: xs

/-- The bytes of a request in transfer order (Table E2). -/
def encode : Instr → List Byte
  | .rbwr b => [0x10, b]
  | .rbdrain => [0x11]
  | .rbstat => [0x12]
  | .enc v => 0x20 :: be32 v
  | .dec d0 d1 d2 d3 d4 => [0x21, d0, d1, d2, d3, d4]
  | .fbpush xs => encodeL 0x30 xs
  | .validate => [0x31]
  | .fbclear => [0x32]
  | .bval v => 0x40 :: be32 v
  | .bdata xs => encodeL 0x41 xs
  | .xcv f => encodeL 0x50 f
  | .stat => [0x60]

/-- The request length of Table E4, in bytes. -/
def Instr.requestLength : Instr → Nat
  | .rbwr _ => 2
  | .rbdrain => 1
  | .rbstat => 1
  | .enc _ => 5
  | .dec _ _ _ _ _ => 6
  | .fbpush xs => 2 + xs.length
  | .validate => 1
  | .fbclear => 1
  | .bval _ => 5
  | .bdata xs => 2 + xs.length
  | .xcv f => 2 + f.length
  | .stat => 1

/-- The opcodes of format L (Table E2). -/
def isFormatL (op : Byte) : Bool := op == 0x30 || op == 0x41 || op == 0x50

/-- How many more bytes of a request of opcode `op` are known to be due after `args` of its operands: the decoder
knows after the first byte, for format L after the second (R82, Table E2). -/
def operandsDue (op : Byte) (args : List Byte) : Nat :=
  if op = 0x10 then 1 - args.length
  else if op = 0x20 ∨ op = 0x40 then 4 - args.length
  else if op = 0x21 then 5 - args.length
  else if isFormatL op then
    match args with
    | [] => 1
    | len :: xs => len.toNat - xs.length
  else 0

/-! ### Words of the opcode table -/

/-- `n` bytes of a number, the least significant first. -/
def bytesOfNat : Nat → Nat → List Byte
  | 0, _ => []
  | n + 1, w => BitVec.ofNat 8 w :: bytesOfNat n (w / 256)

/-- The length of the request that begins with opcode `op` and, in format L, length byte `len` (Table E2); an illegal
opcode is a request of one byte (R262). -/
def requestSize (op len : Byte) : Nat := 1 + operandsDue op [] + (if isFormatL op then len.toNat else 0)

/-- The request a table word stands for: bit 0 is the least significant bit of the first byte, and every bit from
`nbits` on is 0. -/
def tableBytes (nbits w : Nat) : List Byte :=
  let v := w % 2 ^ nbits
  bytesOfNat (requestSize (BitVec.ofNat 8 v) (BitVec.ofNat 8 (v / 256))) v

/-- The port a table word is given to: opcode 0x10 to the write port, every other to the command port (the "port"
column of Table E4; DESIGN CHOICE for illegal opcodes, log 10). -/
def tablePort : List Byte → PortId
  | op :: _ => if op = 0x10 then .wp else .cp
  | [] => .cp

/-- The instruction the decoder reads from a table word, none where it refuses. -/
def decodeTableWord (nbits w : Nat) : Option Instr :=
  match decode (tablePort (tableBytes nbits w)) (tableBytes nbits w) with
  | .ok (i, _) => some i
  | .error _ => none

end Sys2Proof
end

