-- ==== Sys2Proof/Machine/Operands.lean ====
section
/-! DEFINITION. The result fields of a response (30_encoding.md R86, Table E3) and the sub-list of 00_scope.md R12.
Operand assembly (R85) is in Sys2Proof/Decode.lean. -/

namespace Sys2Proof.Machine

/-- The request decoder's state as the spec names it (10_state.md R37). -/
inductive DecoderView where
  /-- Waiting for an opcode byte. -/
  | idle
  /-- `k` operand bytes of a request with this opcode are still due. -/
  | collecting (op : Byte) (k : Nat)
  deriving DecidableEq, Repr

/-- The decoder's state, read from the bytes it has collected (R37). -/
def decoderView : List Byte → DecoderView
  | [] => .idle
  | op :: args => .collecting op (operandsDue op args)

/-- A `LEN, X0 .. X(LEN-1)` result (Table E3). -/
def lenList (xs : List Byte) : List Byte := lenByte xs :: xs

/-- `be16` of an exact integer: its 16-bit two's-complement pattern, high byte first (R12, 42_framer.md R167). -/
def be16Int (n : Int) : List Byte := be16 (BitVec.ofInt 16 n)

/-- An index as the one byte a response carries (00_scope.md R9). -/
def indexByte (n : Nat) : Byte := BitVec.ofNat 8 n

/-- `l[i..j]`, the sub-list from index `i` to index `j` inclusive, `[]` when `j < i` (R12). -/
def slice (l : List Byte) (i j : Nat) : List Byte := (l.drop i).take (j + 1 - i)

/-- `xor(l)`, with `xor([]) = 0x00` (R12). -/
def xorBytes (l : List Byte) : Byte := l.foldl (· ^^^ ·) 0

/-- The checksum of a byte list: its XOR with bit 7 forced (30_encoding.md R95). -/
def checksum (l : List Byte) : Byte := xorBytes l ||| Config.csumForce

end Sys2Proof.Machine
end

