-- ==== Sys2Proof/Machine/Ops.lean ====
section
/-! DEFINITION. The named operations over the ring memory, the ports and the counters (00_scope.md R13). The block
takes no exception: a failing operation answers a status (`respond`), its only exception mechanism (R13, R286). -/

namespace Sys2Proof.Machine

/-! ### The ring memory -/

/-- The canonical form: slots strictly rising. A slot not listed has no written byte, so no entry can equal it
(log 2). -/
abbrev Memory.wf (m : Memory) : Prop := m.Pairwise (fun x y => x.1 < y.1)

/-- The byte written to slot `i`, none where nothing has been written since reset. -/
def Memory.lookup : Memory → Nat → Option Byte
  | [], _ => none
  | (j, b) :: m, i => if j = i then some b else Memory.lookup m i

/-- Write one slot, keeping the canonical form. -/
def Memory.store : Memory → Nat → Byte → Memory
  | [], i, b => [(i, b)]
  | (j, c) :: m, i, b =>
    if i < j then (i, b) :: (j, c) :: m
    else if j = i then (i, b) :: m
    else (j, c) :: Memory.store m i b

/-- What slot `i` reads as: the byte written last, a free value where nothing has been written since reset (R22,
R41; U3). -/
def slotByte (s : State) (i : Nat) : Byte := (s.ring.lookup i).getD (Config.ringUnwritten i)

/-- `MemRead(RING, i, 1)` (R13). -/
def memRead (s : State) (i : Nat) : Except Fault Byte :=
  if i < s.params.ringN then .ok (slotByte s i) else .error (.noSuchSlot i)

/-- `MemWrite(RING, i, 1, b)` (R13). -/
def memWrite (s : State) (i : Nat) (b : Byte) : Except Fault State :=
  if i < s.params.ringN then .ok { s with ring := s.ring.store i b } else .error (.noSuchSlot i)

/-- `MemRead` of a list of slots, in order. -/
def memReadAll (s : State) : List Nat → Except Fault (List Byte)
  | [] => .ok []
  | i :: is =>
    match memRead s i with
    | .error f => .error f
    | .ok b =>
      match memReadAll s is with
      | .error f => .error f
      | .ok bs => .ok (b :: bs)

/-- The unread slots `out_ptr, out_ptr + 1, …` mod RING_N, oldest first (10_state.md R28). -/
def unreadSlots (s : State) : List Nat :=
  (List.range (ringCount s)).map fun j => (s.outPtr.toNat + j) % s.params.ringN

/-! ### The ports -/

/-- The port named `p`. -/
def State.port (s : State) : PortId → Port
  | .cp => s.cp
  | .wp => s.wp

/-- Replace the port named `p`. -/
def State.setPort (s : State) (p : PortId) (q : Port) : State :=
  match p with
  | .cp => { s with cp := q }
  | .wp => { s with wp := q }

/-- `respond`: the response of an operation, a status byte and its result bytes, goes to the serialiser of the port
the request came from (R13, 30_encoding.md R86). -/
def respond (p : PortId) (st : Status) (info : List Byte) (s : State) : State :=
  s.setPort p { s.port p with rsp := statusCode st :: info }

/-- A request byte transfers only while the port is not busy and the issuer offers one (10_state.md R38, R81). -/
def Port.accept (q : Port) : Option (Byte × Port) :=
  match q.busy, q.inq with
  | false, b :: rest => some (b, { q with inq := rest })
  | _, _ => none

/-- A response byte transfers; the port is busy until the last one has (R38). -/
def Port.deliver (q : Port) : Port :=
  match q.rsp with
  | [] => q
  | b :: rest => { q with rsp := rest, out := q.out ++ [b], busy := !rest.isEmpty }

/-- What one request byte brings to a port. -/
inductive Fetched where
  /-- No byte transferred, or the request is not complete: the port waits (R82, R326). -/
  | waiting (s : State)
  /-- The byte is an opcode the port does not decode (R89, R90). -/
  | illegal (s : State)
  /-- The byte completes a request. -/
  | request (i : Instr) (s : State)
  deriving DecidableEq, Repr

/-- A request byte is offered to port `p`. A completed or illegal request leaves the decoder idle and the port busy
(R37, R38, R82). -/
def fetch (p : PortId) (s : State) : Fetched :=
  match (s.port p).accept with
  | none => .waiting s
  | some (b, q) =>
    match decode p (q.dec ++ [b]) with
    | .ok (i, rest) => .request i (s.setPort p { q with dec := rest, busy := true })
    | .error .incomplete => .waiting (s.setPort p { q with dec := q.dec ++ [b] })
    | .error (.illegalOpcode _) => .illegal (s.setPort p { q with dec := (q.dec ++ [b]).tail, busy := true })

/-- The issuer of port `p` presents a request byte. -/
def requestEvent : PortId → Event
  | .cp => .cpReq
  | .wp => .wpReq

/-- The issuer of port `p` takes a response byte. -/
def responseEvent : PortId → Event
  | .cp => .cpRsp
  | .wp => .wpRsp

/-- Store a whole request where port `p` takes its next one: all bytes but the last collected, the last offered, the
port not busy, and the issuer's event next (log 10). -/
def placeRequest (p : PortId) (bytes : List Byte) (s : State) : State :=
  { s.setPort p { s.port p with
      inq := bytes.drop (bytes.length - 1) ++ (s.port p).inq
      dec := bytes.take (bytes.length - 1)
      busy := false } with
    env := requestEvent p :: s.env }

/-! ### Counters and reset -/

/-- A checksum mismatch is logged (42_framer.md R167). -/
def countCsumError (s : State) : State := { s with csumErrCnt := satIncr s.csumErrCnt }

/-- A timed-out wait is logged (44_bus_transport.md R231). -/
def countTimeout (s : State) : State := { s with timeoutCnt := satIncr s.timeoutCnt }

/-- One cycle with `rst = 1`: every state element takes its reset value and every request in flight is lost
(70_reset_and_hazards.md R310 to R312). What lies outside the block stays: its parameters, the bytes an issuer still
offers, the bytes already delivered, the coming events (log 9). -/
def applyReset (s : State) : State :=
  { State.resetWith s.params with
    cp := { Port.reset with inq := s.cp.inq, out := s.cp.out }
    wp := { Port.reset with inq := s.wp.inq, out := s.wp.out }
    env := s.env }

end Sys2Proof.Machine
end

