-- ==== Sys2Proof/Machine/Ring.lean ====
section
/-! DEFINITION. The Circular Byte Buffer operations (40_ring_buffer.md). -/

namespace Sys2Proof.Machine

/-- The outcome of a meaning. -/
abbrev Outcome := Host.Outcome State Fault Refusal

/-- `RBWR b` (R120): refused with `FULL` when the ring is full, else stored at `in_ptr`, which advances mod RING_N. -/
def execRbwr (b : Byte) (s : State) : Outcome :=
  if ringFull s then .next (respond .wp .full [] s)
  else
    match memWrite s s.inPtr.toNat b with
    | .error f => .fault f
    | .ok s' => .next (respond .wp .ok [] { s' with inPtr := indexByte (nextIn s) })

/-- `RBDRAIN` (R122, R123): every unread byte, in FIFO order; `out_ptr` advances past them. -/
def execRbdrain (s : State) : Outcome :=
  match memReadAll s (unreadSlots s) with
  | .error f => .fault f
  | .ok xs =>
    .next (respond .cp .ok (lenList xs)
      { s with outPtr := indexByte ((s.outPtr.toNat + ringCount s) % s.params.ringN) })

/-- `RBSTAT` (R124): the pointers, the count and the flags, nothing changed. -/
def execRbstat (s : State) : Outcome :=
  .next (respond .cp .ok [s.inPtr, s.outPtr, indexByte (ringCount s), ringFlags s] s)

end Sys2Proof.Machine
end

