-- ==== Sys2Proof/Machine/Framer.lean ====
section
/-! DEFINITION. The Packet Framer/Validator (42_framer.md). -/

namespace Sys2Proof.Machine

/-- The three results of `V` (R160). -/
inductive Verdict where
  /-- No ETX follows an STX. -/
  | needMore
  /-- The span's checksum does not match: positions of STX and ETX, computed and received checksum. -/
  | csum (s e : Nat) (kc kr : Byte)
  /-- A valid span: positions, address byte, node address, the span's bytes. -/
  | ok (s e : Nat) (a : Byte) (node : Int) (span : List Byte)
  deriving DecidableEq, Repr

/-- The scan, one pass: `i` is the position of the head of the list and `last` the last STX before it. The first ETX
with an STX before it ends it (R161). -/
def scanFrom : List Byte → Nat → Option Nat → Option (Nat × Nat)
  | [], _, _ => none
  | c :: b, i, last =>
    if c = Config.etx then
      match last with
      | some s => some (s, i)
      | none => scanFrom b (i + 1) none
    else if c = Config.stx then scanFrom b (i + 1) (some i)
    else scanFrom b (i + 1) last

/-- The chosen STX and ETX of a byte list (R161). -/
def scan (b : List Byte) : Option (Nat × Nat) := scanFrom b 0 none

/-- `b[i]` (00_scope.md R12), used only for positions of the list. -/
def byteAt (b : List Byte) (i : Nat) : Byte := b.getD i 0

/-- The checksum a span carries: XOR of the bytes strictly after the STX and before the received checksum, bit 7
forced (R162). -/
def computedChecksum (b : List Byte) (s e : Nat) : Byte := checksum (slice b (s + 1) (e - 2))

/-- The validation function `V` (R160 to R164). -/
def validateBytes (b : List Byte) : Verdict :=
  match scan b with
  | none => .needMore
  | some (s, e) =>
    let kr := byteAt b (e - 1)
    let kc := computedChecksum b s e
    if kc = kr then
      let a := byteAt b (s + 1)
      .ok s e a ((a.toNat : Int) - Config.addrOffset) (slice b s e)
    else .csum s e kc kr

/-- `FBPUSH X` (R165): what fits is appended, the rest dropped with `FULL`. -/
def execFbpush (xs : List Byte) (s : State) : Outcome :=
  let k := min xs.length (s.params.fbCap - s.fbuf.length)
  .next (respond .cp (if k = xs.length then .ok else .full) [indexByte k] { s with fbuf := s.fbuf ++ xs.take k })

/-- `VALIDATE` (R167). -/
def execValidate (s : State) : Outcome :=
  match validateBytes s.fbuf with
  | .needMore => .next (respond .cp .needMoreData [] s)
  | .csum _ e kc kr =>
    .next (respond .cp .checksumMismatch [kc, kr] (countCsumError { s with fbuf := s.fbuf.drop (e + 1) }))
  | .ok _ e a node span =>
    .next (respond .cp .ok (a :: (be16Int node ++ lenList span)) { s with fbuf := s.fbuf.drop (e + 1) })

/-- `FBCLEAR` (R169). -/
def execFbclear (s : State) : Outcome := .next (respond .cp .ok [] { s with fbuf := [] })

end Sys2Proof.Machine
end

