-- ==== Sys2Proof/Machine/BusControl.lean ====
section
/-! DEFINITION. The Synchronous Bus Transport, cycle by cycle (44_bus_transport.md R210 to R226), and `XCV`, which
starts a transfer (R215, row `IDLE`; log 5). -/

namespace Sys2Proof.Machine

/-- The value on the block's data bus output, none while the block does not drive it (10_state.md R31; U4). -/
def busData (s : State) : Option Byte := if s.bus.dOe then some s.bus.dO else none

/-- Enter a wait state: the wait counter is cleared (R214). -/
def enterWait (f : Fsm) (b : Bus) : Bus := { b with fsm := f, tcnt := 0 }

/-- Go on with byte `k` of the frame: drive it in `S_DRIVE`, or enter `S_TURN` when the frame has no such byte
(R215, rows `CHKRDY`, `S_WREL`, `S_DRIVE`, `S_TURN`). -/
def driveOrTurn (k : Nat) (b : Bus) : Bus :=
  match b.txf[k]? with
  | some c => { b with fsm := .sDrive, idx := k, dO := c, dOe := true, tcnt := 0 }
  | none => { b with fsm := .sTurn, dOe := false, rxr := [] }

/-- The lines of a bus at rest: clock deasserted, data bus released (R210, R215, R223). -/
def idleLines (b : Bus) : Bus := { b with clkO := true, dOe := false }

/-- The response of an `XCV`: `ATT, CAUSE, LEN, Z` (Table E3, R230). -/
def xcvInfo (b : Bus) (z : List Byte) : List Byte := b.att.setWidth 8 :: b.cause :: lenList z

/-- A timed-out wait advances `timeout_cnt`, no other failure does (R223, R231). -/
def logFailure (c : Status) (s : State) : State := if c = .transportTimeout then countTimeout s else s

/-- The failure action `FAIL(c)` (R223): lines idle, cause recorded, a timeout logged; the next attempt after the gap,
or `DEVICE_UNREACHABLE` after the last. -/
def failAttempt (c : Status) (s : State) : State :=
  let b := { idleLines s.bus with cause := statusCode c }
  let s := logFailure c s
  if b.att.toNat < Config.maxAttempts then { s with bus := enterWait .gap { b with att := b.att + 1 } }
  else respond .cp .deviceUnreachable (xcvInfo b []) { s with bus := { b with fsm := .idle } }

/-- One sample of a wait for `seen` (R214): the sample is counted; on `seen` the wait ends with `onSeen`, and after T
samples without it the attempt fails with `TRANSPORT_TIMEOUT`. -/
def waitSample (seen : Bool) (onSeen : Bus → Bus) (s : State) : State :=
  let b := { s.bus with tcnt := s.bus.tcnt + 1 }
  if seen then { s with bus := onSeen b }
  else if timeoutCycles s.params ≤ b.tcnt then failAttempt .transportTimeout { s with bus := b }
  else { s with bus := b }

/-- A state that lasts `n` cycles, counted in `tcnt` (10_state.md R33). -/
def holdCycles (n : Nat) (leave : Bus → Bus) (s : State) : State :=
  let b := { s.bus with tcnt := s.bus.tcnt + 1 }
  if n ≤ b.tcnt then { s with bus := leave b } else { s with bus := b }

/-- The reply is complete: its last byte is ETX or it has MAX_FRAME bytes (R222). -/
def replyDone (p : Params) (rxr : List Byte) : Bool :=
  rxr.getLast? == some Config.etx || decide (p.maxFrame ≤ rxr.length)

/-- The reply check of `EVAL` (R224): `V` of the whole reply. -/
def checkReply (s : State) : State :=
  match validateBytes s.bus.rxr with
  | .ok _ _ _ _ _ => respond .cp .ok (xcvInfo s.bus s.bus.rxr) { s with bus := { s.bus with fsm := .idle } }
  | .needMore => failAttempt .needMoreData s
  | .csum _ _ _ _ => failAttempt .checksumMismatch s

/-- One cycle of the bus controller with the peer's line `rdy` and the data bus `d` (R212, R213, R215). -/
def busCycle (rdy : Bool) (d : Byte) (s : State) : State :=
  match s.bus.fsm with
  | .idle => { s with bus := idleLines s.bus }
  | .chkrdy => if rdy then { s with bus := driveOrTurn 0 s.bus } else failAttempt .peerNotReady s
  | .sDrive => holdCycles s.params.setupCycles (fun b => { b with fsm := .sStrobe, clkO := false }) s
  | .sStrobe => { s with bus := enterWait .sWack s.bus }
  | .sWack => waitSample (!rdy) (fun b => enterWait .sWrel { b with clkO := true }) s
  | .sWrel => waitSample rdy (fun b => driveOrTurn (b.idx + 1) { b with idx := b.idx + 1 }) s
  | .sTurn => { s with bus := enterWait .rWstb s.bus }
  | .rWstb => waitSample (!rdy) (fun b => enterWait .rAck { b with rxr := b.rxr ++ [d], clkO := false }) s
  | .rAck => holdCycles s.params.ackPulseCycles (fun b => enterWait .rWrel { b with clkO := true }) s
  | .rWrel =>
    waitSample rdy (fun b => if replyDone s.params b.rxr then { b with fsm := .eval } else enterWait .rWstb b) s
  | .eval => checkReply s
  | .gap => holdCycles s.params.retryGapCycles (fun b => { b with fsm := .chkrdy }) { s with bus := idleLines s.bus }

/-- Successive cycles of the bus controller, each with the peer's line and the data bus in it. -/
def busRun (zs : List (Bool × Byte)) (s : State) : State := zs.foldl (fun s z => busCycle z.1 z.2 s) s

/-- `XCV F` (R230; R215, row `IDLE`): the frame is latched, the first attempt begins at `CHKRDY`, no attempt has
failed. The response comes when the bus controller is done (R232). -/
def execXcv (f : List Byte) (s : State) : Outcome :=
  .next { s with bus := { s.bus with fsm := .chkrdy, txf := f, att := 1, cause := 0x00 } }

end Sys2Proof.Machine
end

