-- ==== Sys2Proof/Machine/Codec.lean ====
section
/-! DEFINITION. The Base-128 Value Codec (41_codec.md). -/

namespace Sys2Proof.Machine

/-- Digit of the arithmetic shift of `v` by `k`: `((v >>a k) & 0x7F) + 32` (R140). -/
def encDigit (v : Word32) (k : Nat) : Byte :=
  ((v.sshiftRight k) &&& 0x7F#32).setWidth 8 + BitVec.ofNat 8 Config.digitOffset

/-- The encoding function `enc` (R140). -/
def encDigits (v : Word32) : List Byte := [28, 21, 14, 7, 0].map (encDigit v)

/-- A digit is valid when it is in 32 .. 159 (R143). -/
def validDigit (d : Byte) : Bool := decide (Config.digitOffset ≤ d.toNat ∧ d.toNat ≤ 159)

/-- The raw value of a digit list, folded exactly (R144). Each digit is valid where it is used, so no subtraction is
cut off at 0. -/
def rawValue (ds : List Byte) : Nat := ds.foldl (fun acc d => acc * 128 + (d.toNat - Config.digitOffset)) 0

/-- `R[34:31]` is 0b0000 or 0b1111 (R145). -/
def canonicalRaw (r : Nat) : Bool := r / 2 ^ 31 % 16 == 0 || r / 2 ^ 31 % 16 == 15

/-- What `DEC` reports for a digit list: `BAD_DIGIT` before `NONCANONICAL` (R146, 60_exceptions.md R284). -/
def decDigits (ds : List Byte) : Status × Word32 :=
  if ds.all validDigit then
    (if canonicalRaw (rawValue ds) then .ok else .noncanonical, BitVec.ofNat 32 (rawValue ds))
  else (.badDigit, 0)

/-- `ENC v` (R142). -/
def execEnc (v : Word32) (s : State) : Outcome := .next (respond .cp .ok (encDigits v) s)

/-- `DEC [D0 D1 D2 D3 D4]` (R146). -/
def execDec (d0 d1 d2 d3 d4 : Byte) (s : State) : Outcome :=
  let r := decDigits [d0, d1, d2, d3, d4]
  .next (respond .cp r.1 (be32 r.2) s)

end Sys2Proof.Machine
end

