-- ==== Sys2Proof/Machine/Control.lean ====
section
/-! DEFINITION. The control operations (45_control.md). -/

namespace Sys2Proof.Machine

/-- `STAT` (R260): the frame buffer length and the two event counters, nothing changed. -/
def execStat (s : State) : Outcome :=
  .next (respond .cp .ok (indexByte s.fbuf.length :: (be16 s.csumErrCnt ++ be16 s.timeoutCnt)) s)

/-- An illegal opcode (R262): answered on the port it arrived on, no state changed. -/
def answerIllegal (p : PortId) (s : State) : State := respond p .illegalOpcode [] s

end Sys2Proof.Machine
end

