-- ==== Sys2Proof/Machine/Reply.lean ====
section
/-! DEFINITION. The Reply Packet Builder (43_reply_builder.md). -/

namespace Sys2Proof.Machine

/-- The value-reply function `bval` (R190). -/
def valueReply (v : Word32) : List Byte := Config.stx :: (encDigits v ++ [checksum (encDigits v), Config.etx])

/-- `BVAL v` (R191). -/
def execBval (v : Word32) (s : State) : Outcome := .next (respond .cp .ok (lenList (valueReply v)) s)

/-- `BDATA X` (R194): the data and DATA_TERM, refused with `TOO_LONG` when that is longer than MAX_FRAME. -/
def execBdata (xs : List Byte) (s : State) : Outcome :=
  if s.params.maxFrame < xs.length + 1 then .next (respond .cp .tooLong [] s)
  else .next (respond .cp .ok (lenList (xs ++ [s.params.dataTerm])) s)

end Sys2Proof.Machine
end

