-- ==== Sys2Proof/Machine/Dispatch.lean ====
section
/-! DEFINITION. The meaning of every operation of Table E4, one arm per constructor. -/

namespace Sys2Proof.Machine

def exec (i : Instr) (s : State) : Host.Outcome State Fault Refusal :=
  match i with
  | .rbwr b => Sys2Proof.Machine.execRbwr b s
  | .rbdrain => Sys2Proof.Machine.execRbdrain s
  | .rbstat => Sys2Proof.Machine.execRbstat s
  | .enc v => Sys2Proof.Machine.execEnc v s
  | .dec d0 d1 d2 d3 d4 => Sys2Proof.Machine.execDec d0 d1 d2 d3 d4 s
  | .fbpush xs => Sys2Proof.Machine.execFbpush xs s
  | .validate => Sys2Proof.Machine.execValidate s
  | .fbclear => Sys2Proof.Machine.execFbclear s
  | .bval v => Sys2Proof.Machine.execBval v s
  | .bdata xs => Sys2Proof.Machine.execBdata xs s
  | .xcv f => Sys2Proof.Machine.execXcv f s
  | .stat => Sys2Proof.Machine.execStat s

end Sys2Proof.Machine
end

