-- ==== Sys2Proof/Machine/Events.lean ====
section
/-! DEFINITION. What one event of the environment does to the block (00_scope.md R7). -/

namespace Sys2Proof.Machine

/-- A request byte on port `p`: a completed request is performed, an illegal opcode answered, else the port waits
(30_encoding.md R82, 45_control.md R262). -/
def requestByte (p : PortId) (s : State) : Outcome :=
  match fetch p s with
  | .waiting s' => .next s'
  | .illegal s' => .next (answerIllegal p s')
  | .request i s' => exec i s'

/-- A response byte taken from port `p`. -/
def responseByte (p : PortId) (s : State) : State := s.setPort p (s.port p).deliver

/-- One event. -/
def runEvent (e : Event) (s : State) : Outcome :=
  match e with
  | .cpReq => requestByte .cp s
  | .cpRsp => .next (responseByte .cp s)
  | .wpReq => requestByte .wp s
  | .wpRsp => .next (responseByte .wp s)
  | .clk rdy d => .next (busCycle rdy d s)
  | .rst => .next (applyReset s)

end Sys2Proof.Machine
end

