-- ==== Sys2Proof/Machine/Step.lean ====
section
/-! DEFINITION. One step of the machine: the next event of the environment. -/

namespace Sys2Proof.Machine

/-- One step: the oldest coming event happens. Without one the block waits (70_reset_and_hazards.md R314; log 3). -/
def step (s : State) : Host.Outcome State Fault Refusal :=
  match s.env with
  | [] => .next s
  | e :: rest => runEvent e { s with env := rest }

/-- The state with a table word stored as the next request of its port (log 10). -/
def State.withFetchWord (s : State) (nbits w : Nat) : State :=
  placeRequest (tablePort (tableBytes nbits w)) (tableBytes nbits w) s

end Sys2Proof.Machine
end

