-- ==== Sys2Proof/Machine/Transaction.lean ====
section
/-! DEFINITION. `XCV` at transaction level (44_bus_transport.md R230, R240): the pseudocode over a sequence of draws of
the peer, no cycles counted. The machine itself runs the state table of BusControl.lean; this second reading is what
statements hold it against (log 11). -/

namespace Sys2Proof.Machine

/-- What the peer decides (R240). -/
inductive Draw where
  /-- The `CHKRDY` sample of the peer's line. -/
  | ready (rdy : Bool)
  /-- The outcome of a `PeerWait`: `true` is seen, `false` is timeout. -/
  | wait (seen : Bool)
  /-- The byte sampled in `R_WSTB`. -/
  | sample (x : Byte)
  deriving DecidableEq, Repr

/-- The result of one attempt (R225). -/
inductive Attempt where
  | reply (z : List Byte)
  | failed (c : Status)
  deriving DecidableEq, Repr

/-- The send loop: two waits per byte; `false` when one times out. None when the draws are not those it asks for. -/
def sendDraws : List Byte → List Draw → Option (Bool × List Draw)
  | [], ds => some (true, ds)
  | _ :: _, .wait false :: ds => some (false, ds)
  | _ :: _, .wait true :: .wait false :: ds => some (false, ds)
  | _ :: f, .wait true :: .wait true :: ds => sendDraws f ds
  | _ :: _, _ => none

/-- The receive loop with `rxr` received so far: the whole reply, or nothing when a wait times out. -/
def receiveDraws (p : Params) : List Byte → List Draw → Option (Option (List Byte) × List Draw)
  | _, .wait false :: ds => some (none, ds)
  | _, .wait true :: .sample _ :: .wait false :: ds => some (none, ds)
  | rxr, .wait true :: .sample x :: .wait true :: ds =>
    if replyDone p (rxr ++ [x]) then some (some (rxr ++ [x]), ds) else receiveDraws p (rxr ++ [x]) ds
  | _, _ => none

/-- The reply check of an attempt (R224). -/
def judgeReply (z : List Byte) : Attempt :=
  match validateBytes z with
  | .ok _ _ _ _ _ => .reply z
  | .needMore => .failed .needMoreData
  | .csum _ _ _ _ => .failed .checksumMismatch

/-- `Attempt(F)` (R230). -/
def attemptDraws (p : Params) (f : List Byte) : List Draw → Option (Attempt × List Draw)
  | .ready false :: ds => some (.failed .peerNotReady, ds)
  | .ready true :: ds =>
    match sendDraws f ds with
    | none => none
    | some (false, ds) => some (.failed .transportTimeout, ds)
    | some (true, ds) =>
      match receiveDraws p [] ds with
      | none => none
      | some (none, ds) => some (.failed .transportTimeout, ds)
      | some (some z, ds) => some (judgeReply z, ds)
  | _ => none

/-- The attempts from number `att` on, `k` of them left, with the last failure's code and the timeouts so far: the
response, the timeouts in all and the draws left (R230). -/
def attemptsDraws (p : Params) (f : List Byte) :
    Nat → Nat → Byte → Nat → List Draw → Option (List Byte × Nat × List Draw)
  | 0, _, cause, n, ds =>
    some (statusCode .deviceUnreachable :: indexByte Config.maxAttempts :: cause :: lenList [], n, ds)
  | k + 1, att, cause, n, ds =>
    match attemptDraws p f ds with
    | none => none
    | some (.reply z, ds) => some (statusCode .ok :: indexByte att :: cause :: lenList z, n, ds)
    | some (.failed c, ds) =>
      attemptsDraws p f k (att + 1) (statusCode c) (if c = .transportTimeout then n + 1 else n) ds

/-- `XCV(F)` under a sequence of draws: its response and how often `timeout_cnt` advances (R230, R231, R240). None when
the draws are not exactly those the pseudocode asks for. -/
def xcvDraws (p : Params) (f : List Byte) (ds : List Draw) : Option (List Byte × Nat) :=
  match attemptsDraws p f Config.maxAttempts 1 0x00 0 ds with
  | some (rsp, n, []) => some (rsp, n)
  | _ => none

end Sys2Proof.Machine
end

