-- ==== Sys2Proof/Safety.lean ====
section
/-! DEFINITION. The terms of the claims: the invariant every step keeps, runs of operations and of the bus controller,
the bytes the ring holds, and the response table. -/

namespace Sys2Proof.Machine

/-! ### The invariant -/

/-- The ring's part: canonical memory inside the ring, pointers inside the ring, every unread slot written
(10_state.md R22 to R24, R28). -/
abbrev RingInv (s : State) : Prop :=
  s.ring.wf ∧ (∀ c ∈ s.ring, c.1 < s.params.ringN) ∧ s.inPtr.toNat < s.params.ringN ∧
    s.outPtr.toNat < s.params.ringN ∧ ∀ i ∈ unreadSlots s, (s.ring.lookup i).isSome

/-- The states in which the block drives the data bus (44_bus_transport.md R219). -/
def sending : Fsm → Bool
  | .sDrive | .sStrobe | .sWack | .sWrel => true
  | _ => false

/-- The states in which the clock line is asserted (R215). -/
def clockAsserted : Fsm → Bool
  | .sStrobe | .sWack | .rAck => true
  | _ => false

/-- The states in which `rxr` holds at least one byte (R215). -/
def receivedSome : Fsm → Bool
  | .rAck | .rWrel | .eval => true
  | _ => false

/-- How many cycles at most a counting state lasts (10_state.md R33, R214, R215); none for the states that count
nothing. T is `ceil(1000 * F_CLK / 1000)`, which is `p.fClk`. -/
def stateCycles (p : Params) : Fsm → Option Nat
  | .sDrive => some p.setupCycles
  | .sWack | .sWrel | .rWstb | .rWrel => some p.fClk
  | .rAck => some p.ackPulseCycles
  | .gap => some p.retryGapCycles
  | _ => none

/-- The wait counter is below the length of the state it counts (R33, R214). -/
def tcntBelow (p : Params) (b : Bus) : Bool :=
  match stateCycles p b.fsm with
  | some n => decide (b.tcnt < n)
  | none => true

/-- The bus controller's part (10_state.md R31 to R35, R215, R219, R236). -/
abbrev BusInv (p : Params) (b : Bus) : Prop :=
  b.txf.length ≤ 255 ∧ b.idx ≤ 255 ∧ b.rxr.length ≤ p.maxFrame ∧
    (b.dOe = sending b.fsm) ∧ (b.clkO = !clockAsserted b.fsm) ∧
    (sending b.fsm = true → b.txf[b.idx]? = some b.dO) ∧
    (receivedSome b.fsm = true → b.rxr ≠ []) ∧
    (b.fsm = .sTurn → b.rxr = []) ∧
    (b.fsm = .rWstb → b.rxr.length < p.maxFrame) ∧
    (b.fsm ≠ .idle → 1 ≤ b.att.toNat) ∧
    tcntBelow p b = true

/-- The ports' part: a busy port collects nothing; the decoder holds the beginning of a request; a response is pending
only on a busy port; the command port is busy for the whole of an `XCV` (10_state.md R37, R38, R232). -/
abbrev PortsInv (s : State) : Prop :=
  (s.cp.busy = true → s.cp.dec = []) ∧ (s.wp.busy = true → s.wp.dec = []) ∧
    decode .cp s.cp.dec = .error .incomplete ∧ decode .wp s.wp.dec = .error .incomplete ∧
    (s.wp.busy = true ↔ s.wp.rsp ≠ []) ∧
    (s.cp.rsp ≠ [] → s.cp.busy = true ∧ s.bus.fsm = .idle) ∧
    (s.bus.fsm ≠ .idle → s.cp.busy = true) ∧
    (s.cp.busy = true → s.cp.rsp ≠ [] ∨ s.bus.fsm ≠ .idle)

/-- What holds at reset and every step keeps. -/
abbrev State.Inv (s : State) : Prop :=
  s.params.Legal ∧ RingInv s ∧ s.fbuf.length ≤ s.params.fbCap ∧ BusInv s.params s.bus ∧ PortsInv s

/-! ### Runs -/

/-- `n` steps, stopping where a step stops. -/
def runSteps : Nat → State → Outcome
  | 0, s => .next s
  | n + 1, s =>
    match step s with
    | .next t => runSteps n t
    | .fault f => .fault f
    | .refused r => .refused r

/-! ### The ring as a queue -/

/-- The unread bytes, oldest first (R28). -/
def unreadBytes (s : State) : List Byte := (unreadSlots s).map (slotByte s)

/-- The byte `i` adds to the accepted bytes when it ran to `t`: an `RBWR` answered `OK` (20_memory.md R71). -/
def acceptedBy (i : Instr) (t : State) : List Byte :=
  match i with
  | .rbwr b => if t.wp.rsp = [statusCode .ok] then [b] else []
  | _ => []

/-- The bytes `i` returned from the ring when it ran to `t`: the data of an `RBDRAIN` response (R71). -/
def drainedBy (i : Instr) (t : State) : List Byte :=
  match i with
  | .rbdrain => t.cp.rsp.drop 2
  | _ => []

/-- A run of operations, in the order performed: the end state, the bytes accepted and the bytes drained. None when an
operation stops. -/
def runOps : List Instr → State → Option (State × List Byte × List Byte)
  | [], s => some (s, [], [])
  | i :: is, s =>
    match exec i s with
    | .next t =>
      match runOps is t with
      | some (u, acc, dr) => some (u, acceptedBy i t ++ acc, drainedBy i t ++ dr)
      | none => none
    | _ => none

/-! ### The scan, as 42_framer.md R161 writes it -/

/-- Position `j` of `b` holds `c`. -/
abbrev holdsAt (b : List Byte) (j : Nat) (c : Byte) : Prop := b[j]? = some c

/-- `j` is in the set E of R161: an ETX with an STX somewhere before it. -/
abbrev etxAfterStx (b : List Byte) (j : Nat) : Prop := holdsAt b j Config.etx ∧ ∃ i, i < j ∧ holdsAt b i Config.stx

/-- `e` is the least of E and `s` the greatest STX position before it (R161). -/
abbrev chosenSpan (b : List Byte) (s e : Nat) : Prop :=
  etxAfterStx b e ∧ (∀ j, j < e → ¬ etxAfterStx b j) ∧ s < e ∧ holdsAt b s Config.stx ∧
    ∀ i, i < e → s < i → ¬ holdsAt b i Config.stx

/-- A command frame with address `a`, command `c` and payload `p` (30_encoding.md R94, R95). -/
def commandFrame (a c : Byte) (p : List Byte) : List Byte :=
  Config.stx :: a :: c :: (p ++ [checksum (a :: c :: p), Config.etx])

/-- Neither STX nor ETX (R97). -/
def plainByte (x : Byte) : Bool := x != Config.stx && x != Config.etx

/-! ### Runs of the bus controller -/

/-- `n` cycles in which the peer's line is released. -/
def quiet (n : Nat) : List (Bool × Byte) := List.replicate n (true, 0)

/-- A peer that acts at the first sample of every wait of one sent byte (R216). -/
def promptSend (p : Params) : List (Bool × Byte) := quiet p.setupCycles ++ [(true, 0), (false, 0), (true, 0)]

/-- A peer that acts at the first sample of every wait of one reply byte `z` (R220). -/
def promptReply (p : Params) (z : Byte) : List (Bool × Byte) := (false, z) :: (quiet p.ackPulseCycles ++ [(true, 0)])

/-- A peer that is ready, takes every byte of `f` at once and replies `z` at once (R230). -/
def promptPeer (p : Params) (f z : List Byte) : List (Bool × Byte) :=
  quiet 1 ++ f.flatMap (fun _ => promptSend p) ++ quiet 1 ++ z.flatMap (promptReply p) ++ quiet 1

/-- The cycles an attempt with a frame of `n` bytes takes at most (R233), with T = F_CLK (Table P1). -/
def attemptBound (p : Params) (n : Nat) : Nat :=
  1 + n * (p.setupCycles + 1 + 2 * p.fClk) + 1 +
    p.maxFrame * (2 * p.fClk + p.ackPulseCycles) + 1

/-- The cycles an `XCV` of a frame of `n` bytes takes at most (R233). -/
def xcvBound (p : Params) (n : Nat) : Nat := 3 * attemptBound p n + 2 * p.retryGapCycles

/-- An event counter advanced `n` times, saturating (R36). -/
def satAdd (c : BitVec 16) (n : Nat) : BitVec 16 := BitVec.ofNat 16 (min 0xFFFF (c.toNat + n))

/-- The wait of the current state, if it is one: what it waits for holds at this sample (R215). -/
def waitSeen (f : Fsm) (rdy : Bool) : Option Bool :=
  match f with
  | .sWack | .rWstb => some (!rdy)
  | .sWrel | .rWrel => some rdy
  | _ => none

/-- This sample ends the wait of the current state in a timeout: it is the T-th, T = F_CLK, without the condition
(R214, Table P1). -/
def waitTimesOut (s : State) (rdy : Bool) : Bool :=
  waitSeen s.bus.fsm rdy == some false && decide (s.params.fClk ≤ s.bus.tcnt + 1)

/-! ### The response table -/

/-- A `LEN, X0 .. X(LEN-1)` field whose LEN byte is the number of bytes that follow it. -/
def lenFieldFits : List Byte → Bool
  | len :: xs => len.toNat == xs.length
  | [] => false

/-- The rows of Table E3: the status and the length of a response, by the operation it answers (30_encoding.md R86). -/
def responseFits (i : Instr) (rsp : List Byte) : Bool :=
  match i with
  | .rbwr _ => rsp == [0x00] || rsp == [0x05]
  | .rbdrain => rsp.head? == some 0x00 && lenFieldFits (rsp.drop 1)
  | .rbstat => rsp.head? == some 0x00 && rsp.length == 5
  | .enc _ => rsp.head? == some 0x00 && rsp.length == 6
  | .dec _ _ _ _ _ =>
    (rsp.head? == some 0x00 || rsp.head? == some 0x08 || rsp.head? == some 0x07) && rsp.length == 5
  | .fbpush _ => (rsp.head? == some 0x00 || rsp.head? == some 0x05) && rsp.length == 2
  | .validate =>
    (rsp.head? == some 0x00 && lenFieldFits (rsp.drop 4)) || rsp == [0x01] ||
      (rsp.head? == some 0x02 && rsp.length == 3)
  | .fbclear => rsp == [0x00]
  | .bval _ => rsp.head? == some 0x00 && rsp.length == 10 && lenFieldFits (rsp.drop 1)
  | .bdata _ => (rsp.head? == some 0x00 && lenFieldFits (rsp.drop 1)) || rsp == [0x06]
  | .xcv _ => (rsp.head? == some 0x00 || rsp.head? == some 0x09) && lenFieldFits (rsp.drop 3)
  | .stat => rsp.head? == some 0x00 && rsp.length == 6

end Sys2Proof.Machine
end

