-- ==== Sys2Proof/Certificates/Slice0/Obligations.lean ====
section
/-! DEFINITION. The statements for the provers. Each docstring names the rules of spec/ it formalises. -/

open Sys2Proof Sys2Proof.Machine

/-! ### Encoding (30_encoding.md) -/

/-- Every well-formed request decodes from its own bytes, on its own port, with every operand at every value, whatever
bytes follow (R82 to R85, R88, R93). -/
def Obligations.DecodeEncodeRoundTrip : Prop :=
  ∀ (i : Instr) (rest : List Byte), i.wellFormed = true → decode i.port (encode i ++ rest) = .ok (i, rest)

/-- What a port decodes is a well-formed request of that port, and the bytes it took are that request's encoding: no
bytes have two meanings and no meaning is reached from other bytes (R82 to R93). -/
def Obligations.DecodedBytesAreTheEncoding : Prop :=
  ∀ (p : PortId) (bytes rest : List Byte) (i : Instr), decode p bytes = .ok (i, rest) →
    bytes = encode i ++ rest ∧ i.wellFormed = true ∧ i.port = p

/-- Words written out from Table E2, Table E4 and the examples of the operation rules decode to the requests they
stand for. -/
def Obligations.SpecWordsDecode : Prop :=
  decode .wp [0x10, 0x41] = .ok (.rbwr 0x41, []) ∧
  decode .cp [0x11] = .ok (.rbdrain, []) ∧
  decode .cp [0x20, 0x00, 0x07, 0xA1, 0x20] = .ok (.enc 500000, []) ∧
  decode .cp [0x21, 0x20, 0x20, 0x3E, 0x62, 0x40] = .ok (.dec 0x20 0x20 0x3E 0x62 0x40, []) ∧
  decode .cp [0x30, 0x03, 0x02, 0x0D, 0x20] = .ok (.fbpush [0x02, 0x0D, 0x20], []) ∧
  decode .cp [0x40, 0xFF, 0xFF, 0xFF, 0xFF] = .ok (.bval (-1), []) ∧
  decode .cp [0x50, 0x00] = .ok (.xcv [], []) ∧
  decode .cp [0x60] = .ok (.stat, [])

/-- The write port decodes only 0x10, the command port only the eleven other opcodes: every other byte is an illegal
opcode on that port, whatever follows it (R89, R90). That it is a request of one byte is said by
IllegalOpcodeAnswered. -/
def Obligations.IllegalOpcodesPerPort : Prop :=
  ∀ (op : Byte) (rest : List Byte),
    (decode .wp (op :: rest) = .error (.illegalOpcode op) ↔ op ≠ 0x10) ∧
    (decode .cp (op :: rest) = .error (.illegalOpcode op) ↔
      op ∉ [0x11, 0x12, 0x20, 0x21, 0x30, 0x31, 0x32, 0x40, 0x41, 0x50, (0x60 : Byte)])

/-! ### Ports -/

/-- A step in which a port that is not busy takes the byte that completes a request runs that request: it is `exec` of
the decoded instruction at the state whose event and byte are consumed, decoder idle and port busy (R37, R38, R82). -/
def Obligations.StepRunsTheDecodedRequest : Prop :=
  ∀ (p : PortId) (s : State) (b : Byte) (inq : List Byte) (evs : List Event) (i : Instr) (rest : List Byte),
    s.env = requestEvent p :: evs → (s.port p).busy = false → (s.port p).inq = b :: inq →
    decode p ((s.port p).dec ++ [b]) = .ok (i, rest) →
    step s = exec i (({ s with env := evs } : State).setPort p
      { s.port p with inq := inq, dec := rest, busy := true })

/-- A request is performed only when its last byte has arrived: before that each byte only moves into the decoder,
which names the opcode and how many bytes are still due, and the last byte runs the instruction (R37, R82). In format L
the number is known only from the length byte on; that one byte counts as due before it is the model's choice, read from
R82 (log 14, DEDUCED). -/
def Obligations.RequestPerformedOnItsLastByte : Prop :=
  ∀ (i : Instr) (s : State) (rest : List Byte) (evs : List Event) (k : Nat),
    i.wellFormed = true → (s.port i.port).busy = false → (s.port i.port).dec = [] →
    (s.port i.port).inq = encode i ++ rest → s.env = List.replicate k (requestEvent i.port) ++ evs →
    (k < i.requestLength →
      runSteps k s = .next (({ s with env := evs } : State).setPort i.port
        { s.port i.port with inq := (encode i).drop k ++ rest, dec := (encode i).take k }) ∧
      (1 ≤ k → decoderView ((encode i).take k) =
        .collecting i.opcode
          (if k = 1 ∧ i.opcode ∈ [0x30, 0x41, (0x50 : Byte)] then 1 else i.requestLength - k))) ∧
    (k = i.requestLength →
      runSteps k s = exec i (({ s with env := evs } : State).setPort i.port
        { s.port i.port with inq := rest, dec := [], busy := true }))

/-- An illegal opcode is a one-byte request answered `ILLEGAL_OPCODE` on its port; nothing else changes and the decoder
is idle for the next byte (R262). -/
def Obligations.IllegalOpcodeAnswered : Prop :=
  ∀ (p : PortId) (s : State) (op : Byte) (inq : List Byte) (evs : List Event),
    s.env = requestEvent p :: evs → (s.port p).busy = false → (s.port p).dec = [] → (s.port p).inq = op :: inq →
    (p = .wp ∧ op ≠ 0x10 ∨ p = .cp ∧
      op ∉ [0x11, 0x12, 0x20, 0x21, 0x30, 0x31, 0x32, 0x40, 0x41, 0x50, (0x60 : Byte)]) →
    step s = .next (({ s with env := evs } : State).setPort p
      { s.port p with inq := inq, dec := [], busy := true, rsp := [0x0F] })

/-- While a port is busy it accepts no request byte: the offer changes nothing and the byte stays offered (R38, R320). -/
def Obligations.BusyPortTakesNothing : Prop :=
  ∀ (p : PortId) (s : State) (evs : List Event), s.env = requestEvent p :: evs → (s.port p).busy = true →
    step s = .next { s with env := evs }

/-- A response is delivered byte by byte in list order, and the port is busy until its last byte is (R38, R65). -/
def Obligations.ResponseDeliveredInOrder : Prop :=
  ∀ (p : PortId) (s : State) (evs : List Event) (k : Nat),
    s.env = List.replicate k (responseEvent p) ++ evs → (s.port p).busy = true → (s.port p).rsp ≠ [] →
    k ≤ (s.port p).rsp.length →
    runSteps k s = .next (({ s with env := evs } : State).setPort p
      { s.port p with rsp := (s.port p).rsp.drop k, out := (s.port p).out ++ (s.port p).rsp.take k,
                      busy := decide (k < (s.port p).rsp.length) })

/-- Every response has a status and a length of Table E3: of every operation that answers at once, wherever the
parameters are legal, the ring is in order and the frame buffer within its capacity (as they are where a step performs
an operation), and of an `XCV` at the cycle that ends it, in every state that keeps the invariant (R86, R280). The row of
the illegal opcodes is left to IllegalOpcodeAnswered. -/
def Obligations.ResponsesHaveTableE3Shape : Prop :=
  (∀ (s : State) (i : Instr) (t : State), s.params.Legal → RingInv s → s.fbuf.length ≤ s.params.fbCap →
    (∀ f, i ≠ .xcv f) → exec i s = .next t → responseFits i (t.port i.port).rsp = true) ∧
  (∀ (s : State) (rdy : Bool) (d : Byte), s.Inv → s.bus.fsm ≠ .idle → (busCycle rdy d s).bus.fsm = .idle →
    responseFits (.xcv s.bus.txf) (busCycle rdy d s).cp.rsp = true)

/-- Which operation may change which state: the ring and `in_ptr` only `RBWR`, `out_ptr` only `RBDRAIN`, the frame
buffer only the three framer operations, `csum_err_cnt` only `VALIDATE`, the bus controller only `XCV`, and of the two
ports only the serialiser of the operation's own; the parameters and the coming events none (R61, R121, R166). No
operation's own step changes `timeout_cnt` either: that is the model's choice (log 5, DEDUCED), by which the request of
an `XCV` only starts the transfer and its later clock cycles count the timeouts of R231. -/
def Obligations.OperationsTouchOnlyTheirState : Prop :=
  ∀ (i : Instr) (s t : State), exec i s = .next t →
    t.params = s.params ∧ t.env = s.env ∧ t.timeoutCnt = s.timeoutCnt ∧
    ((∀ b, i ≠ .rbwr b) → t.ring = s.ring ∧ t.inPtr = s.inPtr ∧ t.wp = s.wp) ∧
    (i ≠ .rbdrain → t.outPtr = s.outPtr) ∧
    ((∀ xs, i ≠ .fbpush xs) → i ≠ .validate → i ≠ .fbclear → t.fbuf = s.fbuf) ∧
    (i ≠ .validate → t.csumErrCnt = s.csumErrCnt) ∧
    ((∀ f, i ≠ .xcv f) → t.bus = s.bus) ∧
    (∀ p, t.port p = { s.port p with rsp := (t.port p).rsp }) ∧
    (∀ p, p ≠ i.port → t.port p = s.port p)

/-! ### Ring (40_ring_buffer.md) -/

/-- `RBWR b`: into a full ring it answers `FULL` and changes nothing; otherwise it writes slot `in_ptr` alone, advances
`in_ptr` mod RING_N and answers `OK` (R120). -/
def Obligations.RbwrStoresOrRefuses : Prop :=
  ∀ (b : Byte) (s : State),
    s.params.Legal → s.inPtr.toNat < s.params.ringN → s.outPtr.toNat < s.params.ringN →
    encode (.rbwr b) = [0x10, b] ∧ (Instr.rbwr b).port = .wp ∧
    ((s.inPtr.toNat + 1) % s.params.ringN = s.outPtr.toNat →
      exec (.rbwr b) s = .next { s with wp := { s.wp with rsp := [0x05] } }) ∧
    ((s.inPtr.toNat + 1) % s.params.ringN ≠ s.outPtr.toNat →
      ∃ t, exec (.rbwr b) s = .next t ∧
        t = { s with ring := t.ring, inPtr := t.inPtr, wp := { s.wp with rsp := [0x00] } } ∧
        t.inPtr.toNat = (s.inPtr.toNat + 1) % s.params.ringN ∧
        slotByte t s.inPtr.toNat = b ∧
        ∀ j, j ≠ s.inPtr.toNat → slotByte t j = slotByte s j)

/-- `RBDRAIN`: the unread bytes in FIFO order with their number before them; `out_ptr` becomes `in_ptr`; every slot and
everything else is unchanged (R122). -/
def Obligations.RbdrainReturnsUnread : Prop :=
  ∀ s : State,
    s.params.Legal → s.inPtr.toNat < s.params.ringN → s.outPtr.toNat < s.params.ringN →
    ∃ n : Nat, (n : Int) = ((s.inPtr.toNat : Int) - s.outPtr.toNat) % s.params.ringN ∧
      encode .rbdrain = [0x11] ∧ Instr.rbdrain.port = .cp ∧
      exec .rbdrain s = .next { s with
        outPtr := s.inPtr
        cp := { s.cp with
          rsp := 0x00 :: BitVec.ofNat 8 n ::
            (List.range n).map fun j => slotByte s ((s.outPtr.toNat + j) % s.params.ringN) } }

/-- `RBSTAT`: pointers, count and flags, with full and empty exclusive; nothing else changes (R124). -/
def Obligations.RbstatReports : Prop :=
  ∀ s : State,
    s.params.Legal → s.inPtr.toNat < s.params.ringN → s.outPtr.toNat < s.params.ringN →
    ∃ n : Nat, (n : Int) = ((s.inPtr.toNat : Int) - s.outPtr.toNat) % s.params.ringN ∧
      encode .rbstat = [0x12] ∧ Instr.rbstat.port = .cp ∧
      exec .rbstat s = .next { s with
        cp := { s.cp with
          rsp := [0x00, s.inPtr, s.outPtr, BitVec.ofNat 8 n,
            if s.inPtr = s.outPtr then 0x01
            else if (s.inPtr.toNat + 1) % s.params.ringN = s.outPtr.toNat then 0x02 else 0x00] } }

/-- The FIFO guarantee: over any run of operations of both ports, from any state that keeps the ring's invariant, the
run completes and the bytes unread before it followed by the bytes accepted are the bytes drained followed by those
unread after it; from an empty ring the drained bytes are a beginning of the accepted ones. An `RBDRAIN` after the run
returns exactly the bytes then unread and leaves none (R71). -/
def Obligations.RingIsFifo : Prop :=
  ∀ (ops : List Instr) (s : State), s.params.Legal → RingInv s →
    ∃ t acc dr, runOps ops s = some (t, acc, dr) ∧ RingInv t ∧
      unreadBytes s ++ acc = dr ++ unreadBytes t ∧ (unreadBytes s = [] → dr <+: acc) ∧
      ∃ u, exec .rbdrain t = .next u ∧
        u.cp.rsp = 0x00 :: BitVec.ofNat 8 (unreadBytes t).length :: unreadBytes t ∧ unreadBytes u = []

/-- The capacity law: from an empty ring the first RING_N - 1 writes are answered `OK`, every later one is answered
`FULL`, and the drain returns the accepted bytes in order (R125). -/
def Obligations.RingCapacityLaw : Prop :=
  ∀ (bs : List Byte) (s : State), s.params.Legal → s.inPtr = s.outPtr → s.inPtr.toNat < s.params.ringN →
    (∃ t, runOps (bs.map .rbwr ++ [.rbdrain]) s =
      some (t, bs.take (s.params.ringN - 1), bs.take (s.params.ringN - 1))) ∧
    ∀ (k : Nat) (b : Byte), bs[k]? = some b →
      ∃ u v, runOps ((bs.take k).map .rbwr) s = some (u, (bs.take k).take (s.params.ringN - 1), []) ∧
        exec (.rbwr b) u = .next v ∧ v.wp.rsp = if k < s.params.ringN - 1 then [0x00] else [0x05]

/-- The write port never waits for the command port: a write-port byte and a bus controller cycle, in either order, end
in the same outcome (R69, R235). -/
def Obligations.WritePortCommutesWithBus : Prop :=
  ∀ (s : State) (evs : List Event) (rdy : Bool) (d : Byte),
    runSteps 2 { s with env := .wpReq :: .clk rdy d :: evs } =
      runSteps 2 { s with env := .clk rdy d :: .wpReq :: evs }

/-! ### Codec (41_codec.md) -/

/-- `ENC v`: digit `i` is bits `34 - 7i .. 28 - 7i` of the 35-bit two's-complement pattern of `v`, plus 32; nothing
else changes (R140, R142). -/
def Obligations.EncAnswersDigits : Prop :=
  ∀ (v : Word32) (s : State),
    encode (.enc v) = [0x20, v.extractLsb' 24 8, v.extractLsb' 16 8, v.extractLsb' 8 8, v.extractLsb' 0 8] ∧
    (Instr.enc v).port = .cp ∧
    exec (.enc v) s = .next { s with
      cp := { s.cp with
        rsp := 0x00 :: (List.range 5).map fun i =>
          (((v.signExtend 35).extractLsb' (28 - 7 * i) 7).setWidth 8 + 32 : Byte) } }

/-- The range of the encoder's digits: the first is 32 .. 39 for `v >= 0` and 152 .. 159 for `v < 0`, every one is in
32 .. 159, so none is STX or ETX (R141). -/
def Obligations.EncDigitsInRange : Prop :=
  ∀ v : Word32, ∃ d0 d1 d2 d3 d4 : Byte, encDigits v = [d0, d1, d2, d3, d4] ∧
    (0 ≤ v.toInt → 32 ≤ d0.toNat ∧ d0.toNat ≤ 39) ∧ (v.toInt < 0 → 152 ≤ d0.toNat ∧ d0.toNat ≤ 159) ∧
    ∀ d ∈ [d0, d1, d2, d3, d4], 32 ≤ d.toNat ∧ d.toNat ≤ 159 ∧ d ≠ 0x02 ∧ d ≠ 0x03

/-- `DEC`: a digit outside 32 .. 159 gives `BAD_DIGIT` and 0; otherwise the exact 35-bit fold R gives the value R[31:0],
with `OK` when R[34:31] is 0000 or 1111 and `NONCANONICAL` else; nothing else changes (R146). -/
def Obligations.DecAnswersValue : Prop :=
  ∀ (d0 d1 d2 d3 d4 : Byte) (s : State),
    encode (.dec d0 d1 d2 d3 d4) = [0x21, d0, d1, d2, d3, d4] ∧ (Instr.dec d0 d1 d2 d3 d4).port = .cp ∧
    ((∃ d ∈ [d0, d1, d2, d3, d4], d.toNat < 32 ∨ 159 < d.toNat) →
      exec (.dec d0 d1 d2 d3 d4) s = .next { s with cp := { s.cp with rsp := [0x07, 0, 0, 0, 0] } }) ∧
    ((∀ d ∈ [d0, d1, d2, d3, d4], 32 ≤ d.toNat ∧ d.toNat ≤ 159) →
      ∃ r : Nat, r = (d0.toNat - 32) * 2 ^ 28 + (d1.toNat - 32) * 2 ^ 21 + (d2.toNat - 32) * 2 ^ 14 +
          (d3.toNat - 32) * 2 ^ 7 + (d4.toNat - 32) ∧ r < 2 ^ 35 ∧
        exec (.dec d0 d1 d2 d3 d4) s = .next { s with
          cp := { s.cp with
            rsp := [if r / 2 ^ 31 = 0 ∨ r / 2 ^ 31 = 15 then 0x00 else 0x08,
              BitVec.ofNat 8 (r / 2 ^ 24), BitVec.ofNat 8 (r / 2 ^ 16), BitVec.ofNat 8 (r / 2 ^ 8),
              BitVec.ofNat 8 r] } })

/-- A valid group is canonical exactly when its first digit is in 32 .. 39 or 152 .. 159, exactly when it is an output
of the encoder, and its decoded value is then R read as a 35-bit two's-complement number (R145). -/
def Obligations.CanonicalGroupsAreEncoderOutputs : Prop :=
  ∀ d0 d1 d2 d3 d4 : Byte, (∀ d ∈ [d0, d1, d2, d3, d4], 32 ≤ d.toNat ∧ d.toNat ≤ 159) →
    let r := rawValue [d0, d1, d2, d3, d4]
    ((decDigits [d0, d1, d2, d3, d4]).1 = .ok ↔ r / 2 ^ 31 = 0 ∨ r / 2 ^ 31 = 15) ∧
    ((decDigits [d0, d1, d2, d3, d4]).1 = .ok ↔
      (32 ≤ d0.toNat ∧ d0.toNat ≤ 39) ∨ (152 ≤ d0.toNat ∧ d0.toNat ≤ 159)) ∧
    ((decDigits [d0, d1, d2, d3, d4]).1 = .ok ↔ ∃ v, encDigits v = [d0, d1, d2, d3, d4]) ∧
    ((decDigits [d0, d1, d2, d3, d4]).1 = .ok →
      (decDigits [d0, d1, d2, d3, d4]).2.toInt = (BitVec.ofNat 35 r).toInt)

/-- Round trip: `DEC` of the digits `ENC v` answered is answered `OK` with `v` (R147). -/
def Obligations.DecOfEncIsTheValue : Prop :=
  ∀ (v : Word32) (s t : State) (d0 d1 d2 d3 d4 : Byte),
    exec (.enc v) s = .next t → t.cp.rsp = [0x00, d0, d1, d2, d3, d4] →
    exec (.dec d0 d1 d2 d3 d4) t = .next { t with
      cp := { t.cp with
        rsp := [0x00, v.extractLsb' 24 8, v.extractLsb' 16 8, v.extractLsb' 8 8, v.extractLsb' 0 8] } }

/-- Inverse round trip: the encoder gives a canonical group back from its decoded value, and no other group (R148). -/
def Obligations.EncOfDecIsTheGroup : Prop :=
  ∀ d0 d1 d2 d3 d4 : Byte,
    encDigits (decDigits [d0, d1, d2, d3, d4]).2 = [d0, d1, d2, d3, d4] ↔
      (decDigits [d0, d1, d2, d3, d4]).1 = .ok

/-! ### Framer (42_framer.md) -/

/-- The scan chooses the first ETX with an STX before it and the last STX before that ETX, and chooses nothing exactly
when no ETX follows an STX (R161). -/
def Obligations.ScanChoosesTheSpan : Prop :=
  ∀ b : List Byte,
    (∀ s e, scan b = some (s, e) ↔ chosenSpan b s e) ∧ (scan b = none ↔ ¬ ∃ j, etxAfterStx b j)

/-- `V`: `NEED_MORE` exactly when no ETX follows an STX; else the span is judged by its checksum, and a matching one
gives address byte, node address minus 10 and the bytes from STX to ETX (R160, R162, R163, R170). -/
def Obligations.ValidatorVerdict : Prop :=
  ∀ b : List Byte,
    (validateBytes b = .needMore ↔ ¬ ∃ j, etxAfterStx b j) ∧
    ∀ s e, chosenSpan b s e →
      ∃ a kr : Byte, b[s + 1]? = some a ∧ b[e - 1]? = some kr ∧
        let kc : Byte := ((b.drop (s + 1)).take (e - 2 - s)).foldl (· ^^^ ·) 0 ||| 0x80
        (kc = kr → validateBytes b = .ok s e a ((a.toNat : Int) - 10) ((b.drop s).take (e - s + 1))) ∧
        (kc ≠ kr → validateBytes b = .csum s e kc kr)

/-- `FBPUSH X`: what fits is appended in order, the rest dropped with `FULL`; the response counts the bytes taken;
nothing else changes (R165). -/
def Obligations.FbpushAppendsWhatFits : Prop :=
  ∀ (xs : List Byte) (s : State),
    encode (.fbpush xs) = 0x30 :: BitVec.ofNat 8 xs.length :: xs ∧ (Instr.fbpush xs).port = .cp ∧
    (xs.length ≤ s.params.fbCap - s.fbuf.length →
      exec (.fbpush xs) s = .next { s with
        fbuf := s.fbuf ++ xs, cp := { s.cp with rsp := [0x00, BitVec.ofNat 8 xs.length] } }) ∧
    (s.params.fbCap - s.fbuf.length < xs.length →
      exec (.fbpush xs) s = .next { s with
        fbuf := s.fbuf ++ xs.take (s.params.fbCap - s.fbuf.length)
        cp := { s.cp with rsp := [0x05, BitVec.ofNat 8 (s.params.fbCap - s.fbuf.length)] } })

/-- `VALIDATE`: without a span it answers `NEED_MORE_DATA` and changes nothing; with one it consumes everything up to
and including the chosen ETX, and answers the mismatching checksums, counted once, or the address byte, the node
address, the span's length and the span; nothing else changes (R167). -/
def Obligations.ValidateConsumesOneFrame : Prop :=
  ∀ s : State,
    encode .validate = [0x31] ∧ Instr.validate.port = .cp ∧
    ((¬ ∃ j, etxAfterStx s.fbuf j) →
      exec .validate s = .next { s with cp := { s.cp with rsp := [0x01] } }) ∧
    ∀ st e, chosenSpan s.fbuf st e →
      ∃ a kr : Byte, s.fbuf[st + 1]? = some a ∧ s.fbuf[e - 1]? = some kr ∧
        let kc : Byte := ((s.fbuf.drop (st + 1)).take (e - 2 - st)).foldl (· ^^^ ·) 0 ||| 0x80
        let span := (s.fbuf.drop st).take (e - st + 1)
        let node : BitVec 16 := a.setWidth 16 - 10
        (kc ≠ kr →
          exec .validate s = .next { s with
            fbuf := s.fbuf.drop (e + 1)
            csumErrCnt := BitVec.ofNat 16 (min 0xFFFF (s.csumErrCnt.toNat + 1))
            cp := { s.cp with rsp := [0x02, kc, kr] } }) ∧
        (kc = kr →
          exec .validate s = .next { s with
            fbuf := s.fbuf.drop (e + 1)
            cp := { s.cp with
              rsp := 0x00 :: a :: node.extractLsb' 8 8 :: node.extractLsb' 0 8 ::
                BitVec.ofNat 8 span.length :: span } })

/-- `FBCLEAR` empties the frame buffer, answers `OK` and changes nothing else (R169). -/
def Obligations.FbclearEmpties : Prop :=
  ∀ s : State,
    encode .fbclear = [0x32] ∧ Instr.fbclear.port = .cp ∧
    exec .fbclear s = .next { s with fbuf := [], cp := { s.cp with rsp := [0x00] } }

/-- A full frame buffer without a frame stays so: after any operations but `FBCLEAR`, `VALIDATE` answers
`NEED_MORE_DATA` and the buffer is the same (R168). -/
def Obligations.FullBufferWithoutFrameIsStuck : Prop :=
  ∀ (ops : List Instr) (s u : State) (acc dr : List Byte),
    s.fbuf.length = s.params.fbCap → validateBytes s.fbuf = .needMore → (∀ i ∈ ops, i ≠ .fbclear) →
    runOps ops s = some (u, acc, dr) →
    u.fbuf = s.fbuf ∧ exec .validate u = .next { u with cp := { u.cp with rsp := [0x01] } }

/-- Inside a span only the first byte is STX and only the last is ETX (R171). -/
def Obligations.SpanInteriorIsPlain : Prop :=
  ∀ (b : List Byte) (s e : Nat), scan b = some (s, e) →
    b[s]? = some 0x02 ∧ b[e]? = some 0x03 ∧ s < e ∧
    ∀ i c, s < i → i < e → b[i]? = some c → c ≠ 0x02 ∧ c ≠ 0x03

/-- Split frames: pushing the first part and validating answers `NEED_MORE_DATA` and keeps it; pushing the rest and
validating answers the span the whole gives (R172). -/
def Obligations.SplitFrameCompletesLater : Prop :=
  ∀ (p q : List Byte) (s : State) (st e : Nat) (a : Byte) (node : Int) (span : List Byte),
    s.fbuf = [] → (p ++ q).length ≤ s.params.fbCap →
    validateBytes p = .needMore → validateBytes (p ++ q) = .ok st e a node span →
    ∃ u, runOps [.fbpush p, .validate] s = some (u, [], []) ∧ u.fbuf = p ∧ u.cp.rsp = [0x01] ∧
      ∃ w, runOps [.fbpush q, .validate] u = some (w, [], []) ∧
        w.cp.rsp = 0x00 :: a :: (be16Int node ++ BitVec.ofNat 8 span.length :: span)

/-- A command frame whose address, command and payload hold no STX or ETX validates whole, with its own address byte;
its checksum byte is at least 0x80 and neither STX nor ETX (R94 to R97). -/
def Obligations.CommandFrameValidates : Prop :=
  ∀ (a c : Byte) (p : List Byte), (∀ x ∈ a :: c :: p, plainByte x = true) →
    (commandFrame a c p).length = 5 + p.length ∧ 0x80 ≤ (checksum (a :: c :: p)).toNat ∧
    plainByte (checksum (a :: c :: p)) = true ∧
    validateBytes (commandFrame a c p) =
      .ok 0 (4 + p.length) a ((a.toNat : Int) - 10) (commandFrame a c p)

/-- Single-byte corruption: changing one byte between STX and the checksum, not into STX or ETX, is a checksum mismatch
exactly when it changes one of bits 0 to 6, and a false positive when it changes only bit 7 (R173). -/
def Obligations.SingleByteCorruption : Prop :=
  ∀ (a c : Byte) (p : List Byte) (pos : Nat) (x y : Byte), (∀ z ∈ a :: c :: p, plainByte z = true) →
    1 ≤ pos → pos + 3 ≤ (commandFrame a c p).length → (commandFrame a c p)[pos]? = some x →
    y ≠ x → plainByte y = true →
    ((∃ s e kc kr, validateBytes ((commandFrame a c p).set pos y) = .csum s e kc kr) ↔ (x ^^^ y) &&& 0x7F ≠ 0) ∧
    (x ^^^ y = 0x80 → ∃ s e b n span, validateBytes ((commandFrame a c p).set pos y) = .ok s e b n span)

/-! ### Reply builder (43_reply_builder.md) -/

/-- `BVAL v`: the eight bytes STX, the five digits of `v`, their checksum, ETX; nothing else changes (R191). -/
def Obligations.BvalAnswersValueReply : Prop :=
  ∀ (v : Word32) (s : State) (e0 e1 e2 e3 e4 : Byte), encDigits v = [e0, e1, e2, e3, e4] →
    encode (.bval v) = [0x40, v.extractLsb' 24 8, v.extractLsb' 16 8, v.extractLsb' 8 8, v.extractLsb' 0 8] ∧
    (Instr.bval v).port = .cp ∧
    exec (.bval v) s = .next { s with
      cp := { s.cp with
        rsp := [0x00, 8, 0x02, e0, e1, e2, e3, e4, (e0 ^^^ e1 ^^^ e2 ^^^ e3 ^^^ e4) ||| 0x80, 0x03] } }

/-- Every value reply passes the validator whole, its first digit in the place of the address byte, with node 22 .. 29
for `v >= 0` and 142 .. 149 for `v < 0` (R192). -/
def Obligations.ValueReplyValidates : Prop :=
  ∀ (v : Word32) (s t : State), exec (.bval v) s = .next t →
    ∃ (e0 : Byte) (node : Int), (encDigits v).head? = some e0 ∧ node = (e0.toNat : Int) - 10 ∧
      validateBytes (t.cp.rsp.drop 2) = .ok 0 7 e0 node (t.cp.rsp.drop 2) ∧
      (0 ≤ v.toInt → 22 ≤ node ∧ node ≤ 29) ∧ (v.toInt < 0 → 142 ≤ node ∧ node ≤ 149)

/-- A value reply carries its value: `DEC` of its bytes 1 to 5 answers `OK` with `v` (R193). -/
def Obligations.ValueReplyCarriesItsValue : Prop :=
  ∀ (v : Word32) (s t : State) (x0 x1 x2 e0 e1 e2 e3 e4 x3 x4 : Byte), exec (.bval v) s = .next t →
    t.cp.rsp = [x0, x1, x2, e0, e1, e2, e3, e4, x3, x4] →
    ∃ u, exec (.dec e0 e1 e2 e3 e4) t = .next u ∧
      u.cp.rsp = [0x00, v.extractLsb' 24 8, v.extractLsb' 16 8, v.extractLsb' 8 8, v.extractLsb' 0 8]

/-- `BDATA X`: the data and the terminator, or `TOO_LONG` when that is longer than MAX_FRAME; nothing else changes
(R194). -/
def Obligations.BdataAppendsTerminator : Prop :=
  ∀ (xs : List Byte) (s : State),
    encode (.bdata xs) = 0x41 :: BitVec.ofNat 8 xs.length :: xs ∧ (Instr.bdata xs).port = .cp ∧
    (s.params.maxFrame < xs.length + 1 →
      exec (.bdata xs) s = .next { s with cp := { s.cp with rsp := [0x06] } }) ∧
    (xs.length + 1 ≤ s.params.maxFrame →
      exec (.bdata xs) s = .next { s with
        cp := { s.cp with rsp := 0x00 :: BitVec.ofNat 8 (xs.length + 1) :: (xs ++ [s.params.dataTerm]) } })

/-- With DATA_TERM = ETX, the data reply of a command frame without its ETX is that frame, and it validates (R196). -/
def Obligations.DataReplyCanBeAFrame : Prop :=
  ∀ (a c : Byte) (p : List Byte) (s t : State), s.params.dataTerm = 0x03 →
    (∀ x ∈ a :: c :: p, plainByte x = true) → (commandFrame a c p).length ≤ s.params.maxFrame →
    exec (.bdata (commandFrame a c p).dropLast) s = .next t →
    t.cp.rsp.drop 2 = commandFrame a c p ∧
      validateBytes (t.cp.rsp.drop 2) = .ok 0 (4 + p.length) a ((a.toNat : Int) - 10) (commandFrame a c p)

/-! ### Bus transport (44_bus_transport.md) -/

/-- `XCV F` starts a transfer: the frame is latched, attempt 1 begins at `CHKRDY`, no attempt has failed, and nothing
else changes (R215, row `IDLE`). That the step of the request does this row alone, with `CHKRDY` at the first later
clock event and the response at the event that ends the transfer, is the model's choice (log 5, DEDUCED). -/
def Obligations.XcvStartsTheTransfer : Prop :=
  ∀ (f : List Byte) (s : State),
    encode (.xcv f) = 0x50 :: BitVec.ofNat 8 f.length :: f ∧ (Instr.xcv f).port = .cp ∧
    exec (.xcv f) s = .next { s with bus := { s.bus with fsm := .chkrdy, txf := f, att := 1, cause := 0x00 } }

/-- The state table of the bus controller, rows `IDLE` to `S_TURN` and `GAP`, every exit of each, a wait failing at its
T-th sample without its condition (R214 to R217, R219). T is `ceil(1000 * F_CLK / 1000)`, which is F_CLK (Table P1). The
model's choices: the request exit of `IDLE` is the step of the request (log 5, DEDUCED); a sample that ends a wait is
counted, and the ends of counts are tests by at least (log 6, DEDUCED). -/
def Obligations.SendRowsOfTheStateTable : Prop :=
  ∀ (s : State) (rdy : Bool) (d : Byte),
    (s.bus.fsm = .idle → busCycle rdy d s = { s with bus := { s.bus with clkO := true, dOe := false } }) ∧
    (∀ f, s.bus.fsm = .idle →
      exec (.xcv f) s = .next { s with bus := { s.bus with fsm := .chkrdy, txf := f, att := 1, cause := 0x00 } }) ∧
    (s.bus.fsm = .chkrdy → rdy = false → busCycle rdy d s = failAttempt .peerNotReady s) ∧
    (s.bus.fsm = .chkrdy → rdy = true → s.bus.txf = [] →
      busCycle rdy d s = { s with bus := { s.bus with fsm := .sTurn, dOe := false, rxr := [] } }) ∧
    (∀ c f, s.bus.fsm = .chkrdy → rdy = true → s.bus.txf = c :: f →
      busCycle rdy d s =
        { s with bus := { s.bus with fsm := .sDrive, idx := 0, dO := c, dOe := true, tcnt := 0 } }) ∧
    (s.bus.fsm = .sDrive → s.bus.tcnt + 1 < s.params.setupCycles →
      busCycle rdy d s = { s with bus := { s.bus with tcnt := s.bus.tcnt + 1 } }) ∧
    (s.bus.fsm = .sDrive → s.params.setupCycles ≤ s.bus.tcnt + 1 →
      busCycle rdy d s =
        { s with bus := { s.bus with fsm := .sStrobe, clkO := false, tcnt := s.bus.tcnt + 1 } }) ∧
    (s.bus.fsm = .sStrobe → busCycle rdy d s = { s with bus := { s.bus with fsm := .sWack, tcnt := 0 } }) ∧
    (s.bus.fsm = .sWack → rdy = false →
      busCycle rdy d s = { s with bus := { s.bus with fsm := .sWrel, clkO := true, tcnt := 0 } }) ∧
    (s.bus.fsm = .sWack → rdy = true → s.bus.tcnt + 1 < s.params.fClk →
      busCycle rdy d s = { s with bus := { s.bus with tcnt := s.bus.tcnt + 1 } }) ∧
    (s.bus.fsm = .sWack → rdy = true → s.params.fClk ≤ s.bus.tcnt + 1 →
      busCycle rdy d s =
        failAttempt .transportTimeout { s with bus := { s.bus with tcnt := s.bus.tcnt + 1 } }) ∧
    (∀ c, s.bus.fsm = .sWrel → rdy = true → s.bus.txf[s.bus.idx + 1]? = some c →
      busCycle rdy d s =
        { s with bus := { s.bus with fsm := .sDrive, idx := s.bus.idx + 1, dO := c, dOe := true, tcnt := 0 } }) ∧
    (s.bus.fsm = .sWrel → rdy = true → s.bus.idx + 1 = s.bus.txf.length →
      busCycle rdy d s =
        { s with bus := { s.bus with fsm := .sTurn, idx := s.bus.idx + 1, dOe := false, rxr := []
                                     tcnt := s.bus.tcnt + 1 } }) ∧
    (s.bus.fsm = .sWrel → rdy = false → s.bus.tcnt + 1 < s.params.fClk →
      busCycle rdy d s = { s with bus := { s.bus with tcnt := s.bus.tcnt + 1 } }) ∧
    (s.bus.fsm = .sWrel → rdy = false → s.params.fClk ≤ s.bus.tcnt + 1 →
      busCycle rdy d s =
        failAttempt .transportTimeout { s with bus := { s.bus with tcnt := s.bus.tcnt + 1 } }) ∧
    (s.bus.fsm = .sTurn → busCycle rdy d s = { s with bus := { s.bus with fsm := .rWstb, tcnt := 0 } }) ∧
    (s.bus.fsm = .gap → s.bus.tcnt + 1 < s.params.retryGapCycles →
      busCycle rdy d s =
        { s with bus := { s.bus with clkO := true, dOe := false, tcnt := s.bus.tcnt + 1 } }) ∧
    (s.bus.fsm = .gap → s.params.retryGapCycles ≤ s.bus.tcnt + 1 →
      busCycle rdy d s =
        { s with bus := { s.bus with fsm := .chkrdy, clkO := true, dOe := false, tcnt := s.bus.tcnt + 1 } })

/-- The state table of the bus controller, rows `R_WSTB` to `EVAL`, every exit of each, a wait failing at its T-th sample
without its condition (R214, R215, R220 to R222, R224). T is `ceil(1000 * F_CLK / 1000)`, which is F_CLK (Table P1). The
model's choices: the sample that enters `EVAL` is counted, and the ends of counts are tests by at least (log 6,
DEDUCED). -/
def Obligations.ReceiveRowsOfTheStateTable : Prop :=
  ∀ (s : State) (rdy : Bool) (d : Byte),
    (s.bus.fsm = .rWstb → rdy = false →
      busCycle rdy d s =
        { s with bus := { s.bus with fsm := .rAck, rxr := s.bus.rxr ++ [d], clkO := false, tcnt := 0 } }) ∧
    (s.bus.fsm = .rWstb → rdy = true → s.bus.tcnt + 1 < s.params.fClk →
      busCycle rdy d s = { s with bus := { s.bus with tcnt := s.bus.tcnt + 1 } }) ∧
    (s.bus.fsm = .rWstb → rdy = true → s.params.fClk ≤ s.bus.tcnt + 1 →
      busCycle rdy d s =
        failAttempt .transportTimeout { s with bus := { s.bus with tcnt := s.bus.tcnt + 1 } }) ∧
    (s.bus.fsm = .rAck → s.bus.tcnt + 1 < s.params.ackPulseCycles →
      busCycle rdy d s = { s with bus := { s.bus with tcnt := s.bus.tcnt + 1 } }) ∧
    (s.bus.fsm = .rAck → s.params.ackPulseCycles ≤ s.bus.tcnt + 1 →
      busCycle rdy d s = { s with bus := { s.bus with fsm := .rWrel, clkO := true, tcnt := 0 } }) ∧
    (s.bus.fsm = .rWrel → rdy = true →
      (s.bus.rxr.getLast? = some 0x03 ∨ s.bus.rxr.length = s.params.maxFrame) →
      busCycle rdy d s = { s with bus := { s.bus with fsm := .eval, tcnt := s.bus.tcnt + 1 } }) ∧
    (s.bus.fsm = .rWrel → rdy = true → s.bus.rxr.getLast? ≠ some 0x03 → s.bus.rxr.length < s.params.maxFrame →
      busCycle rdy d s = { s with bus := { s.bus with fsm := .rWstb, tcnt := 0 } }) ∧
    (s.bus.fsm = .rWrel → rdy = false → s.bus.tcnt + 1 < s.params.fClk →
      busCycle rdy d s = { s with bus := { s.bus with tcnt := s.bus.tcnt + 1 } }) ∧
    (s.bus.fsm = .rWrel → rdy = false → s.params.fClk ≤ s.bus.tcnt + 1 →
      busCycle rdy d s =
        failAttempt .transportTimeout { s with bus := { s.bus with tcnt := s.bus.tcnt + 1 } }) ∧
    (∀ st e a node span, s.bus.fsm = .eval → validateBytes s.bus.rxr = .ok st e a node span →
      busCycle rdy d s =
        { s with
          bus := { s.bus with fsm := .idle }
          cp := { s.cp with
            rsp := 0x00 :: s.bus.att.setWidth 8 :: s.bus.cause :: BitVec.ofNat 8 s.bus.rxr.length :: s.bus.rxr } }) ∧
    (s.bus.fsm = .eval → validateBytes s.bus.rxr = .needMore → busCycle rdy d s = failAttempt .needMoreData s) ∧
    (∀ st e kc kr, s.bus.fsm = .eval → validateBytes s.bus.rxr = .csum st e kc kr →
      busCycle rdy d s = failAttempt .checksumMismatch s)

/-- The failure action: idle lines, the cause recorded, a timeout and nothing else counted; the next attempt after the
gap while `att` is below 3, else `DEVICE_UNREACHABLE` with an empty reply (R223). That `tcnt` is cleared on entry to
`GAP`, which the state table does not print, is the model's choice (log 6, DEDUCED). -/
def Obligations.FailureAction : Prop :=
  ∀ (c : Status) (s : State),
    let cnt : BitVec 16 :=
      if c = .transportTimeout then BitVec.ofNat 16 (min 0xFFFF (s.timeoutCnt.toNat + 1)) else s.timeoutCnt
    (s.bus.att.toNat < 3 →
      failAttempt c s = { s with
        timeoutCnt := cnt
        bus := { s.bus with fsm := .gap, clkO := true, dOe := false, cause := statusCode c, att := s.bus.att + 1
                            tcnt := 0 } }) ∧
    (s.bus.att.toNat = 3 →
      failAttempt c s = { s with
        timeoutCnt := cnt
        bus := { s.bus with fsm := .idle, clkO := true, dOe := false, cause := statusCode c }
        cp := { s.cp with rsp := [0x09, 3, statusCode c, 0] } })

/-- A wait entered with `tcnt` 0: through fewer than T samples without its condition it only counts them; the T-th ends
it in `TRANSPORT_TIMEOUT`; its condition at any of the first T samples ends it, with no timeout. T is
`ceil(1000 * F_CLK / 1000)`, which is F_CLK (R214, Table P1). -/
def Obligations.WaitIsBoundedByT : Prop :=
  ∀ (s : State) (zs : List (Bool × Byte)), s.bus.tcnt = 0 → (∀ z ∈ zs, waitSeen s.bus.fsm z.1 = some false) →
    (waitSeen s.bus.fsm true).isSome = true →
    (zs.length < s.params.fClk →
      busRun zs s = { s with bus := { s.bus with tcnt := zs.length } } ∧
      ∀ z : Bool × Byte, waitSeen s.bus.fsm z.1 = some true →
        (busRun (zs ++ [z]) s).bus.fsm ≠ s.bus.fsm ∧ (busRun (zs ++ [z]) s).bus.att = s.bus.att ∧
        (busRun (zs ++ [z]) s).timeoutCnt = s.timeoutCnt) ∧
    (zs.length = s.params.fClk → zs ≠ [] →
      busRun zs s = failAttempt .transportTimeout { s with bus := { s.bus with tcnt := s.params.fClk } })

/-- What is not sampled has no effect: the peer's line outside `CHKRDY` and the four waits, and the data bus everywhere
but in `R_WSTB` with the line asserted (R213). -/
def Obligations.UnsampledInputsHaveNoEffect : Prop :=
  ∀ (s : State) (r1 r2 : Bool) (d1 d2 : Byte),
    (s.bus.fsm ∉ [.chkrdy, .sWack, .sWrel, .rWstb, .rWrel] → busCycle r1 d1 s = busCycle r2 d2 s) ∧
    ((s.bus.fsm ≠ .rWstb ∨ r1 = true) → busCycle r1 d1 s = busCycle r1 d2 s)

/-- `timeout_cnt` advances by exactly one, saturating, at a cycle that ends a wait in a timeout (its T-th sample without
its condition, T = F_CLK, R214), and at no other cycle (R231). -/
def Obligations.TimeoutsAreCountedOnce : Prop :=
  ∀ (s : State) (rdy : Bool) (d : Byte),
    (busCycle rdy d s).timeoutCnt = if waitTimesOut s rdy then satAdd s.timeoutCnt 1 else s.timeoutCnt

/-- The bus controller touches nothing but its own state, `timeout_cnt` and the command port's serialiser, however long
it runs (R235). -/
def Obligations.BusRunFrame : Prop :=
  ∀ (zs : List (Bool × Byte)) (s : State),
    busRun zs s =
      { s with
        bus := (busRun zs s).bus
        timeoutCnt := (busRun zs s).timeoutCnt
        cp := { s.cp with rsp := (busRun zs s).cp.rsp } }

/-- A ready peer that acts at once and replies `z`, a valid reply whose only ETX is its last byte, is relayed at the
first attempt: `OK`, 1 attempt, no cause, the raw reply; no timeout is counted and the lines end idle (R230). -/
def Obligations.PromptPeerIsRelayed : Prop :=
  ∀ (f z : List Byte) (s s0 : State) (st e : Nat) (a : Byte) (node : Int) (span : List Byte),
    s.params.Legal → z.length ≤ s.params.maxFrame → z.getLast? = some 0x03 → 0x03 ∉ z.dropLast →
    validateBytes z = .ok st e a node span → exec (.xcv f) s = .next s0 → s.bus.clkO = true → s.bus.dOe = false →
    (busRun (promptPeer s.params f z) s0).bus.fsm = .idle ∧
    (busRun (promptPeer s.params f z) s0).cp.rsp = 0x00 :: 1 :: 0x00 :: BitVec.ofNat 8 z.length :: z ∧
    (busRun (promptPeer s.params f z) s0).timeoutCnt = s.timeoutCnt ∧
    (busRun (promptPeer s.params f z) s0).bus.clkO = true ∧ (busRun (promptPeer s.params f z) s0).bus.dOe = false

/-- A peer whose line stays released: every attempt with a frame of at least one byte times out waiting for the first
acknowledge; after three attempts and two gaps the answer is `DEVICE_UNREACHABLE`, 3 attempts, cause timeout, no reply,
and three timeouts are counted (R234). T is F_CLK (Table P1). -/
def Obligations.DeadPeerIsUnreachable : Prop :=
  ∀ (f : List Byte) (zs : List (Bool × Byte)) (s s0 : State),
    s.params.Legal → f ≠ [] → (∀ z ∈ zs, z.1 = true) →
    zs.length = 3 * (1 + s.params.setupCycles + 1 + s.params.fClk) + 2 * s.params.retryGapCycles →
    exec (.xcv f) s = .next s0 →
    (busRun zs s0).bus.fsm = .idle ∧ (busRun zs s0).cp.rsp = [0x09, 3, 0x03, 0] ∧
      (busRun zs s0).timeoutCnt = satAdd s.timeoutCnt 3

/-- Every `XCV` ends, whatever the peer does, within three attempts' worst case and two gaps (R233), with T = F_CLK
(Table P1). -/
def Obligations.XcvEndsWithinItsBound : Prop :=
  ∀ (f : List Byte) (zs : List (Bool × Byte)) (s s0 : State),
    s.params.Legal → exec (.xcv f) s = .next s0 → xcvBound s.params f.length ≤ zs.length →
    ∃ n, n ≤ xcvBound s.params f.length ∧ (busRun (zs.take n) s0).bus.fsm = .idle

/-- Cycle level refines transaction level: whatever the peer does, an `XCV` that ends has the response and the number
of timeouts that the pseudocode gives for some sequence of draws of the peer (R230, R240). -/
def Obligations.CyclesRefineTheTransaction : Prop :=
  ∀ (f : List Byte) (zs : List (Bool × Byte)) (s s0 : State), exec (.xcv f) s = .next s0 →
    (∀ k, k < zs.length → (busRun (zs.take k) s0).bus.fsm ≠ .idle) → (busRun zs s0).bus.fsm = .idle →
    ∃ ds n, xcvDraws s.params f ds = some ((busRun zs s0).cp.rsp, n) ∧
      (busRun zs s0).timeoutCnt = satAdd s.timeoutCnt n

/-- Every sequence of draws is admitted: what the pseudocode gives for it, some peer makes the bus controller do
(R240). -/
def Obligations.EveryDrawSequenceIsRealised : Prop :=
  ∀ (f : List Byte) (ds : List Draw) (rsp : List Byte) (n : Nat) (s s0 : State),
    s.params.Legal → xcvDraws s.params f ds = some (rsp, n) → exec (.xcv f) s = .next s0 →
    ∃ zs, (∀ k, k < zs.length → (busRun (zs.take k) s0).bus.fsm ≠ .idle) ∧ (busRun zs s0).bus.fsm = .idle ∧
      (busRun zs s0).cp.rsp = rsp ∧ (busRun zs s0).timeoutCnt = satAdd s.timeoutCnt n

/-- Every `XCV` ends with idle lines and a response pending (R236), in every state that keeps the invariant. -/
def Obligations.XcvEndsWithIdleLines : Prop :=
  ∀ (s : State) (rdy : Bool) (d : Byte), s.Inv → s.bus.fsm ≠ .idle → (busCycle rdy d s).bus.fsm = .idle →
    (busCycle rdy d s).bus.clkO = true ∧ (busCycle rdy d s).bus.dOe = false ∧
      busData (busCycle rdy d s) = none ∧ (busCycle rdy d s).cp.rsp ≠ []

/-- No state of one `XCV` influences a later one: two blocks with the same parameters, idle lines and whatever else left
in their bus controllers answer the same peer in the same way, cycle by cycle (R236). -/
def Obligations.XcvForgetsEarlierTransfers : Prop :=
  ∀ (f : List Byte) (zs : List (Bool × Byte)) (s1 s2 t1 t2 : State),
    s1.params = s2.params → s1.cp.rsp = s2.cp.rsp → s1.bus.clkO = true → s2.bus.clkO = true →
    s1.bus.dOe = false → s2.bus.dOe = false → exec (.xcv f) s1 = .next t1 → exec (.xcv f) s2 = .next t2 →
    (busRun zs t1).bus.fsm = (busRun zs t2).bus.fsm ∧ (busRun zs t1).bus.clkO = (busRun zs t2).bus.clkO ∧
    busData (busRun zs t1) = busData (busRun zs t2) ∧ (busRun zs t1).cp.rsp = (busRun zs t2).cp.rsp

/-! ### Control (45_control.md) -/

/-- `STAT`: the frame buffer length and the two counters, high byte first; nothing else changes (R260). -/
def Obligations.StatReports : Prop :=
  ∀ s : State,
    encode .stat = [0x60] ∧ Instr.stat.port = .cp ∧
    exec .stat s = .next { s with
      cp := { s.cp with
        rsp := [0x00, BitVec.ofNat 8 s.fbuf.length,
          BitVec.ofNat 8 (s.csumErrCnt.toNat / 256), BitVec.ofNat 8 s.csumErrCnt.toNat,
          BitVec.ofNat 8 (s.timeoutCnt.toNat / 256), BitVec.ofNat 8 s.timeoutCnt.toNat] } }

/-- `csum_err_cnt` advances only in a step that performs `VALIDATE`, `timeout_cnt` only in a cycle of a running `XCV`,
each by one, saturating; nothing but reset clears them (R261). -/
def Obligations.CountersAdvanceOnlyAsStated : Prop :=
  ∀ s t : State, step s = .next t →
    (s.env.head? ≠ some .rst →
      (t.csumErrCnt ≠ s.csumErrCnt →
        ∃ evs s', s.env = .cpReq :: evs ∧ fetch .cp { s with env := evs } = .request .validate s' ∧
          t.csumErrCnt = satAdd s.csumErrCnt 1) ∧
      (t.timeoutCnt ≠ s.timeoutCnt →
        ∃ rdy d, s.env.head? = some (.clk rdy d) ∧ s.bus.fsm ≠ .idle ∧ t.timeoutCnt = satAdd s.timeoutCnt 1)) ∧
    (s.env.head? = some .rst → t.csumErrCnt = 0 ∧ t.timeoutCnt = 0)

/-! ### Reset (70_reset_and_hazards.md) and the invariant -/

/-- The state after reset, for every choice of the build parameters: every element of Table S1 for which the table gives
a value holds it, and no byte is unread (R41). The model's reset state is one of these: it is the model's choice which (log 1,
DESIGN CHOICE), and that a slot of `ring` nothing has written holds no byte is log 2. -/
def Obligations.ResetValuesOfTableS1 : Prop :=
  (∃ p, State.reset = State.resetWith p) ∧
  ∀ p : Params,
    let s := State.resetWith p
    s.inPtr = 0 ∧ s.outPtr = 0 ∧ s.fbuf = [] ∧ s.bus.fsm = .idle ∧ s.bus.clkO = true ∧
    s.bus.dO = 0x00 ∧ s.bus.dOe = false ∧ s.bus.tcnt = 0 ∧ s.bus.att = 0 ∧ s.bus.cause = 0x00 ∧ s.bus.txf = [] ∧
    s.bus.idx = 0 ∧ s.bus.rxr = [] ∧ s.csumErrCnt = 0 ∧ s.timeoutCnt = 0 ∧
    decoderView s.cp.dec = .idle ∧ decoderView s.wp.dec = .idle ∧ s.cp.rsp = [] ∧ s.wp.rsp = [] ∧
    s.cp.busy = false ∧ s.wp.busy = false ∧ unreadBytes s = []

/-- A cycle with `rst = 1` puts every element at its reset value from any state, an `XCV` or a request in flight
included (R310, R311, R312). The model's choices: the parameters, the bytes already delivered and the bytes still
offered stay (log 9, DEDUCED), and what the ring's slots held, which Table S1 leaves unspecified, is forgotten (log 2,
DESIGN CHOICE). -/
def Obligations.ResetAbandonsEverything : Prop :=
  ∀ (s : State) (evs : List Event), s.env = .rst :: evs →
    ∃ t, step s = .next t ∧ t.env = evs ∧
      { t with env := [], cp := { t.cp with inq := [], out := [] }, wp := { t.wp with inq := [], out := [] } } =
        State.resetWith s.params ∧
      t.cp.inq = s.cp.inq ∧ t.wp.inq = s.wp.inq ∧ t.cp.out = s.cp.out ∧ t.wp.out = s.wp.out

/-- The invariant holds right after reset, for every legal choice of the parameters. -/
def Obligations.ResetKeepsTheInvariant : Prop :=
  ∀ p : Params, p.Legal → (State.resetWith p).Inv

/-- Every step from a state that keeps the invariant answers a next state that keeps it: the ring memory stays
canonical and the unread slots written, the pointers, the frame buffer and the reply stay in bounds, the lines are what
the bus controller's state says, the ports stay consistent; no step faults or is refused, and the parameters stay
(R22 to R40, R219, R236, R283). -/
def Obligations.EveryStepKeepsTheInvariant : Prop :=
  ∀ s : State, s.Inv → ∃ t, step s = .next t ∧ t.Inv ∧ t.params = s.params
end

