-- ==== Sys2Proof/Laws/State.lean ====
section
/-! SUPPORT. One lemma per field per named update of the state, true by unfolding, so that no later proof unfolds a
record update. -/

namespace Sys2Proof.Machine

/-! ### Ports -/

@[simp] theorem port_cp (s : State) : s.port .cp = s.cp := rfl
@[simp] theorem port_wp (s : State) : s.port .wp = s.wp := rfl
@[simp] theorem setPort_cp (s : State) (q : Port) : s.setPort .cp q = { s with cp := q } := rfl
@[simp] theorem setPort_wp (s : State) (q : Port) : s.setPort .wp q = { s with wp := q } := rfl
@[simp] theorem port_setPort (s : State) (p : PortId) (q : Port) : (s.setPort p q).port p = q := by cases p <;> rfl
@[simp] theorem setPort_params (s : State) (p : PortId) (q : Port) : (s.setPort p q).params = s.params := by cases p <;> rfl
@[simp] theorem setPort_ring (s : State) (p : PortId) (q : Port) : (s.setPort p q).ring = s.ring := by cases p <;> rfl
@[simp] theorem setPort_inPtr (s : State) (p : PortId) (q : Port) : (s.setPort p q).inPtr = s.inPtr := by cases p <;> rfl
@[simp] theorem setPort_outPtr (s : State) (p : PortId) (q : Port) : (s.setPort p q).outPtr = s.outPtr := by cases p <;> rfl
@[simp] theorem setPort_fbuf (s : State) (p : PortId) (q : Port) : (s.setPort p q).fbuf = s.fbuf := by cases p <;> rfl
@[simp] theorem setPort_bus (s : State) (p : PortId) (q : Port) : (s.setPort p q).bus = s.bus := by cases p <;> rfl
@[simp] theorem setPort_csumErrCnt (s : State) (p : PortId) (q : Port) : (s.setPort p q).csumErrCnt = s.csumErrCnt := by
  cases p <;> rfl
@[simp] theorem setPort_timeoutCnt (s : State) (p : PortId) (q : Port) : (s.setPort p q).timeoutCnt = s.timeoutCnt := by
  cases p <;> rfl
@[simp] theorem setPort_env (s : State) (p : PortId) (q : Port) : (s.setPort p q).env = s.env := by cases p <;> rfl

/-! ### Responses -/

@[simp] theorem respond_cp (st : Status) (info : List Byte) (s : State) :
    respond .cp st info s = { s with cp := { s.cp with rsp := statusCode st :: info } } := rfl
@[simp] theorem respond_wp (st : Status) (info : List Byte) (s : State) :
    respond .wp st info s = { s with wp := { s.wp with rsp := statusCode st :: info } } := rfl
@[simp] theorem respond_params (p : PortId) (st : Status) (info : List Byte) (s : State) :
    (respond p st info s).params = s.params := by cases p <;> rfl
@[simp] theorem respond_ring (p : PortId) (st : Status) (info : List Byte) (s : State) :
    (respond p st info s).ring = s.ring := by cases p <;> rfl
@[simp] theorem respond_inPtr (p : PortId) (st : Status) (info : List Byte) (s : State) :
    (respond p st info s).inPtr = s.inPtr := by cases p <;> rfl
@[simp] theorem respond_outPtr (p : PortId) (st : Status) (info : List Byte) (s : State) :
    (respond p st info s).outPtr = s.outPtr := by cases p <;> rfl
@[simp] theorem respond_fbuf (p : PortId) (st : Status) (info : List Byte) (s : State) :
    (respond p st info s).fbuf = s.fbuf := by cases p <;> rfl
@[simp] theorem respond_bus (p : PortId) (st : Status) (info : List Byte) (s : State) :
    (respond p st info s).bus = s.bus := by cases p <;> rfl
@[simp] theorem respond_csumErrCnt (p : PortId) (st : Status) (info : List Byte) (s : State) :
    (respond p st info s).csumErrCnt = s.csumErrCnt := by cases p <;> rfl
@[simp] theorem respond_timeoutCnt (p : PortId) (st : Status) (info : List Byte) (s : State) :
    (respond p st info s).timeoutCnt = s.timeoutCnt := by cases p <;> rfl
@[simp] theorem respond_env (p : PortId) (st : Status) (info : List Byte) (s : State) :
    (respond p st info s).env = s.env := by cases p <;> rfl

/-! ### Counters -/

@[simp] theorem countCsumError_csumErrCnt (s : State) : (countCsumError s).csumErrCnt = satIncr s.csumErrCnt := rfl
@[simp] theorem countCsumError_params (s : State) : (countCsumError s).params = s.params := rfl
@[simp] theorem countCsumError_ring (s : State) : (countCsumError s).ring = s.ring := rfl
@[simp] theorem countCsumError_inPtr (s : State) : (countCsumError s).inPtr = s.inPtr := rfl
@[simp] theorem countCsumError_outPtr (s : State) : (countCsumError s).outPtr = s.outPtr := rfl
@[simp] theorem countCsumError_fbuf (s : State) : (countCsumError s).fbuf = s.fbuf := rfl
@[simp] theorem countCsumError_bus (s : State) : (countCsumError s).bus = s.bus := rfl
@[simp] theorem countCsumError_timeoutCnt (s : State) : (countCsumError s).timeoutCnt = s.timeoutCnt := rfl
@[simp] theorem countCsumError_cp (s : State) : (countCsumError s).cp = s.cp := rfl
@[simp] theorem countCsumError_wp (s : State) : (countCsumError s).wp = s.wp := rfl
@[simp] theorem countCsumError_env (s : State) : (countCsumError s).env = s.env := rfl

@[simp] theorem countTimeout_timeoutCnt (s : State) : (countTimeout s).timeoutCnt = satIncr s.timeoutCnt := rfl
@[simp] theorem countTimeout_params (s : State) : (countTimeout s).params = s.params := rfl
@[simp] theorem countTimeout_ring (s : State) : (countTimeout s).ring = s.ring := rfl
@[simp] theorem countTimeout_inPtr (s : State) : (countTimeout s).inPtr = s.inPtr := rfl
@[simp] theorem countTimeout_outPtr (s : State) : (countTimeout s).outPtr = s.outPtr := rfl
@[simp] theorem countTimeout_fbuf (s : State) : (countTimeout s).fbuf = s.fbuf := rfl
@[simp] theorem countTimeout_bus (s : State) : (countTimeout s).bus = s.bus := rfl
@[simp] theorem countTimeout_csumErrCnt (s : State) : (countTimeout s).csumErrCnt = s.csumErrCnt := rfl
@[simp] theorem countTimeout_cp (s : State) : (countTimeout s).cp = s.cp := rfl
@[simp] theorem countTimeout_wp (s : State) : (countTimeout s).wp = s.wp := rfl
@[simp] theorem countTimeout_env (s : State) : (countTimeout s).env = s.env := rfl

/-! ### The bus controller -/

@[simp] theorem enterWait_fsm (f : Fsm) (b : Bus) : (enterWait f b).fsm = f := rfl
@[simp] theorem enterWait_tcnt (f : Fsm) (b : Bus) : (enterWait f b).tcnt = 0 := rfl
@[simp] theorem enterWait_clkO (f : Fsm) (b : Bus) : (enterWait f b).clkO = b.clkO := rfl
@[simp] theorem enterWait_dO (f : Fsm) (b : Bus) : (enterWait f b).dO = b.dO := rfl
@[simp] theorem enterWait_dOe (f : Fsm) (b : Bus) : (enterWait f b).dOe = b.dOe := rfl
@[simp] theorem enterWait_att (f : Fsm) (b : Bus) : (enterWait f b).att = b.att := rfl
@[simp] theorem enterWait_cause (f : Fsm) (b : Bus) : (enterWait f b).cause = b.cause := rfl
@[simp] theorem enterWait_txf (f : Fsm) (b : Bus) : (enterWait f b).txf = b.txf := rfl
@[simp] theorem enterWait_idx (f : Fsm) (b : Bus) : (enterWait f b).idx = b.idx := rfl
@[simp] theorem enterWait_rxr (f : Fsm) (b : Bus) : (enterWait f b).rxr = b.rxr := rfl

@[simp] theorem idleLines_fsm (b : Bus) : (idleLines b).fsm = b.fsm := rfl
@[simp] theorem idleLines_clkO (b : Bus) : (idleLines b).clkO = true := rfl
@[simp] theorem idleLines_dO (b : Bus) : (idleLines b).dO = b.dO := rfl
@[simp] theorem idleLines_dOe (b : Bus) : (idleLines b).dOe = false := rfl
@[simp] theorem idleLines_tcnt (b : Bus) : (idleLines b).tcnt = b.tcnt := rfl
@[simp] theorem idleLines_att (b : Bus) : (idleLines b).att = b.att := rfl
@[simp] theorem idleLines_cause (b : Bus) : (idleLines b).cause = b.cause := rfl
@[simp] theorem idleLines_txf (b : Bus) : (idleLines b).txf = b.txf := rfl
@[simp] theorem idleLines_idx (b : Bus) : (idleLines b).idx = b.idx := rfl
@[simp] theorem idleLines_rxr (b : Bus) : (idleLines b).rxr = b.rxr := rfl

/-! ### Reset -/

@[simp] theorem applyReset_params (s : State) : (applyReset s).params = s.params := rfl
@[simp] theorem applyReset_ring (s : State) : (applyReset s).ring = [] := rfl
@[simp] theorem applyReset_inPtr (s : State) : (applyReset s).inPtr = 0 := rfl
@[simp] theorem applyReset_outPtr (s : State) : (applyReset s).outPtr = 0 := rfl
@[simp] theorem applyReset_fbuf (s : State) : (applyReset s).fbuf = [] := rfl
@[simp] theorem applyReset_bus (s : State) : (applyReset s).bus = Bus.reset := rfl
@[simp] theorem applyReset_csumErrCnt (s : State) : (applyReset s).csumErrCnt = 0 := rfl
@[simp] theorem applyReset_timeoutCnt (s : State) : (applyReset s).timeoutCnt = 0 := rfl
@[simp] theorem applyReset_cp (s : State) : (applyReset s).cp = { Port.reset with inq := s.cp.inq, out := s.cp.out } := rfl
@[simp] theorem applyReset_wp (s : State) : (applyReset s).wp = { Port.reset with inq := s.wp.inq, out := s.wp.out } := rfl
@[simp] theorem applyReset_env (s : State) : (applyReset s).env = s.env := rfl

end Sys2Proof.Machine
end

