-- ==== Sys2Proof/Laws/Memory.lean ====
section
/-! SUPPORT. The ring memory: what a read gives after a write, that every operation keeps the canonical form, and what
the ring's read and write operations can answer. -/

namespace Sys2Proof.Machine

@[simp] theorem lookup_nil (i : Nat) : Memory.lookup [] i = none := rfl

theorem lookup_store_self (m : Memory) (i : Nat) (b : Byte) : (m.store i b).lookup i = some b := by
  induction m with
  | nil => simp [Memory.store, Memory.lookup]
  | cons c m ih =>
    obtain ⟨j, x⟩ := c
    simp only [Memory.store]
    split
    · simp [Memory.lookup]
    · split <;> simp_all [Memory.lookup]

theorem lookup_store_of_ne (m : Memory) {i j : Nat} (b : Byte) (h : j ≠ i) :
    (m.store i b).lookup j = m.lookup j := by
  induction m with
  | nil => simp [Memory.store, Memory.lookup, Ne.symm h]
  | cons c m ih =>
    obtain ⟨k, x⟩ := c
    simp only [Memory.store]
    split
    · simp [Memory.lookup, Ne.symm h]
    · split
      · next hk => subst hk; simp [Memory.lookup, Ne.symm h]
      · simp [Memory.lookup, ih]

/-- Where an entry of a written memory comes from. -/
theorem mem_store {m : Memory} {i : Nat} {b : Byte} {c : Host.Cell} (h : c ∈ m.store i b) : c = (i, b) ∨ c ∈ m := by
  induction m with
  | nil => simpa [Memory.store] using h
  | cons d m ih =>
    obtain ⟨j, x⟩ := d
    simp only [Memory.store] at h
    split at h
    · simpa using h
    · split at h
      · simp only [List.mem_cons] at h ⊢; tauto
      · simp only [List.mem_cons] at h ⊢
        rcases h with h | h
        · exact .inr (.inl h)
        · exact (ih h).imp id .inr

theorem wf_nil : Memory.wf [] := List.Pairwise.nil

/-- A write keeps the canonical form. -/
theorem store_wf {m : Memory} (i : Nat) (b : Byte) (h : m.wf) : (m.store i b).wf := by
  induction m with
  | nil => simp [Memory.store, Memory.wf]
  | cons d m ih =>
    obtain ⟨j, x⟩ := d
    obtain ⟨hj, hm⟩ := List.pairwise_cons.mp h
    simp only [Memory.store]
    split
    · next hij =>
      refine List.pairwise_cons.mpr ⟨fun c hc => ?_, h⟩
      rcases List.mem_cons.mp hc with rfl | hc
      · exact hij
      · exact hij.trans (hj c hc)
    · split
      · next hji => subst hji; exact List.pairwise_cons.mpr ⟨hj, hm⟩
      · next h1 h2 =>
        refine List.pairwise_cons.mpr ⟨fun c hc => ?_, ih hm⟩
        rcases mem_store hc with rfl | hc
        · show j < i; omega
        · exact hj c hc

/-- What `MemWrite` can answer. -/
theorem memWrite_ok {s t : State} {i : Nat} {b : Byte} :
    memWrite s i b = .ok t ↔ i < s.params.ringN ∧ t = { s with ring := s.ring.store i b } := by
  unfold memWrite
  split
  · simp_all [eq_comm]
  · simp_all

theorem memWrite_of_lt {s : State} {i : Nat} (b : Byte) (h : i < s.params.ringN) :
    memWrite s i b = .ok { s with ring := s.ring.store i b } := by simp [memWrite, h]

/-- `MemWrite` keeps the canonical form. -/
theorem memWrite_wf {s t : State} {i : Nat} {b : Byte} (h : memWrite s i b = .ok t) (hs : s.ring.wf) : t.ring.wf := by
  obtain ⟨_, rfl⟩ := memWrite_ok.mp h
  exact store_wf i b hs

theorem memRead_of_lt {s : State} {i : Nat} (h : i < s.params.ringN) : memRead s i = .ok (slotByte s i) := by
  simp [memRead, h]

/-- Slots inside the ring read as their bytes, in order. -/
theorem memReadAll_of_lt {s : State} {is : List Nat} (h : ∀ i ∈ is, i < s.params.ringN) :
    memReadAll s is = .ok (is.map (slotByte s)) := by
  induction is with
  | nil => rfl
  | cons i is ih =>
    have hi := memRead_of_lt (h i (List.mem_cons_self ..))
    have his := ih fun j hj => h j (List.mem_cons_of_mem _ hj)
    simp [memReadAll, hi, his]

/-- Every unread slot is inside a ring that has slots. -/
theorem unreadSlots_lt {s : State} (h : 0 < s.params.ringN) : ∀ i ∈ unreadSlots s, i < s.params.ringN := by
  simp only [unreadSlots, List.mem_map]
  rintro i ⟨j, _, rfl⟩
  exact Nat.mod_lt _ h

/-- The unread count of pointers inside the ring, without integers (10_state.md R27). -/
theorem ringCount_eq {s : State} (hi : s.inPtr.toNat < s.params.ringN) (ho : s.outPtr.toNat < s.params.ringN) :
    ringCount s = if s.outPtr.toNat ≤ s.inPtr.toNat then s.inPtr.toNat - s.outPtr.toNat
      else s.inPtr.toNat + s.params.ringN - s.outPtr.toNat := by
  unfold ringCount
  split
  · next h =>
    rw [Int.emod_eq_of_lt (by omega) (by omega)]; omega
  · next h =>
    rw [← Int.add_emod_right, Int.emod_eq_of_lt (by omega) (by omega)]; omega

/-- The count is below the slot count (R27). -/
theorem ringCount_lt {s : State} (h : 0 < s.params.ringN) : ringCount s < s.params.ringN := by
  unfold ringCount
  have h1 := Int.emod_lt_of_pos ((s.inPtr.toNat : Int) - s.outPtr.toNat) (b := s.params.ringN) (by omega)
  have h2 := Int.emod_nonneg ((s.inPtr.toNat : Int) - s.outPtr.toNat) (b := s.params.ringN) (by omega)
  omega

/-- Every operation over the ring memory keeps its canonical form: the meanings, the bus controller and reset change
the ring only through `MemWrite` and reset. -/
theorem execRbwr_ring_wf {b : Byte} {s t : State} (h : execRbwr b s = .next t) (hs : s.ring.wf) : t.ring.wf := by
  unfold execRbwr at h
  split at h
  · cases h; exact hs
  · split at h
    · cases h
    · next s' hw =>
      have hwf : s'.ring.wf := memWrite_wf hw hs
      cases h
      exact hwf

theorem applyReset_ring_wf (s : State) : (applyReset s).ring.wf := wf_nil

theorem reset_ring_wf : State.reset.ring.wf := wf_nil

end Sys2Proof.Machine
end

