-- ==== Sys2Proof/Laws/Ops.lean ====
section
/-! SUPPORT. One lemma per shared operation, saying once everything it can do. -/

namespace Sys2Proof.Machine

/-! ### Ports -/

/-- A port takes a byte exactly when it is not busy and one is offered. -/
theorem accept_eq_some {q q' : Port} {b : Byte} :
    q.accept = some (b, q') ↔ q.busy = false ∧ ∃ rest, q.inq = b :: rest ∧ q' = { q with inq := rest } := by
  unfold Port.accept
  constructor
  · intro h
    split at h
    · next hb hq => cases h; exact ⟨hb, _, hq, rfl⟩
    · cases h
  · rintro ⟨hb, rest, hq, rfl⟩
    simp [hb, hq]

theorem accept_of_busy {q : Port} (h : q.busy = true) : q.accept = none := by simp [Port.accept, h]

theorem accept_of_empty {q : Port} (h : q.inq = []) : q.accept = none := by
  unfold Port.accept; split <;> simp_all

theorem accept_cons {q : Port} {b : Byte} {rest : List Byte} (hb : q.busy = false) (hq : q.inq = b :: rest) :
    q.accept = some (b, { q with inq := rest }) := accept_eq_some.mpr ⟨hb, rest, hq, rfl⟩

/-- Everything a request byte can bring (R37, R38, R82, R262). -/
theorem fetch_cases (p : PortId) (s : State) :
    ((s.port p).accept = none ∧ fetch p s = .waiting s) ∨
    ∃ b q, (s.port p).accept = some (b, q) ∧
      ((∃ i rest, decode p (q.dec ++ [b]) = .ok (i, rest) ∧
          fetch p s = .request i (s.setPort p { q with dec := rest, busy := true })) ∨
       (decode p (q.dec ++ [b]) = .error .incomplete ∧
          fetch p s = .waiting (s.setPort p { q with dec := q.dec ++ [b] })) ∨
       (∃ op, decode p (q.dec ++ [b]) = .error (.illegalOpcode op) ∧
          fetch p s = .illegal (s.setPort p { q with dec := (q.dec ++ [b]).tail, busy := true }))) := by
  unfold fetch
  cases ha : (s.port p).accept with
  | none => simp
  | some bq =>
    obtain ⟨b, q⟩ := bq
    refine .inr ⟨b, q, rfl, ?_⟩
    cases hd : decode p (q.dec ++ [b]) with
    | ok r => obtain ⟨i, rest⟩ := r; exact .inl ⟨i, rest, rfl, by simp [hd]⟩
    | error e =>
      cases e with
      | incomplete => exact .inr (.inl ⟨rfl, by simp [hd]⟩)
      | illegalOpcode op => exact .inr (.inr ⟨op, rfl, by simp [hd]⟩)

theorem deliver_nil {q : Port} (h : q.rsp = []) : q.deliver = q := by simp [Port.deliver, h]

theorem deliver_cons {q : Port} {b : Byte} {rest : List Byte} (h : q.rsp = b :: rest) :
    q.deliver = { q with rsp := rest, out := q.out ++ [b], busy := !rest.isEmpty } := by simp [Port.deliver, h]

/-! ### The bus controller -/

/-- What a frame byte that exists does (R215, row `S_DRIVE`). -/
theorem driveOrTurn_some {k : Nat} {b : Bus} {c : Byte} (h : b.txf[k]? = some c) :
    driveOrTurn k b = { b with fsm := .sDrive, idx := k, dO := c, dOe := true, tcnt := 0 } := by simp [driveOrTurn, h]

/-- What the end of the frame does (R215, row `S_TURN`). -/
theorem driveOrTurn_none {k : Nat} {b : Bus} (h : b.txf[k]? = none) :
    driveOrTurn k b = { b with fsm := .sTurn, dOe := false, rxr := [] } := by simp [driveOrTurn, h]

/-- A failed attempt before the last (R223). -/
theorem failAttempt_retry {c : Status} {s : State} (h : s.bus.att.toNat < 3) :
    failAttempt c s =
      { logFailure c s with
        bus := { s.bus with fsm := .gap, tcnt := 0, clkO := true, dOe := false, cause := statusCode c,
                            att := s.bus.att + 1 } } := by
  simp [failAttempt, Config.maxAttempts, h, enterWait, idleLines]

/-- The last failed attempt (R223). -/
theorem failAttempt_last {c : Status} {s : State} (h : ¬ s.bus.att.toNat < 3) :
    failAttempt c s =
      { logFailure c s with
        bus := { s.bus with fsm := .idle, clkO := true, dOe := false, cause := statusCode c }
        cp := { s.cp with rsp := [0x09, s.bus.att.setWidth 8, statusCode c, 0x00] } } := by
  by_cases hc : c = .transportTimeout <;>
    simp [failAttempt, logFailure, hc, Config.maxAttempts, h, idleLines, xcvInfo, lenList, lenByte, statusCode]

/-- Everything one sample of a wait can do (R214). -/
theorem waitSample_cases (seen : Bool) (onSeen : Bus → Bus) (s : State) :
    (seen = true ∧ waitSample seen onSeen s = { s with bus := onSeen { s.bus with tcnt := s.bus.tcnt + 1 } }) ∨
    (seen = false ∧ timeoutCycles s.params ≤ s.bus.tcnt + 1 ∧
      waitSample seen onSeen s =
        failAttempt .transportTimeout { s with bus := { s.bus with tcnt := s.bus.tcnt + 1 } }) ∨
    (seen = false ∧ s.bus.tcnt + 1 < timeoutCycles s.params ∧
      waitSample seen onSeen s = { s with bus := { s.bus with tcnt := s.bus.tcnt + 1 } }) := by
  cases seen with
  | true => exact .inl ⟨rfl, rfl⟩
  | false =>
    by_cases h : timeoutCycles s.params ≤ s.bus.tcnt + 1
    · exact .inr (.inl ⟨rfl, h, by simp [waitSample, h]⟩)
    · exact .inr (.inr ⟨rfl, by omega, by simp [waitSample, h]⟩)

/-- Everything one cycle of a counted state can do (10_state.md R33). -/
theorem holdCycles_cases (n : Nat) (leave : Bus → Bus) (s : State) :
    (n ≤ s.bus.tcnt + 1 ∧ holdCycles n leave s = { s with bus := leave { s.bus with tcnt := s.bus.tcnt + 1 } }) ∨
    (s.bus.tcnt + 1 < n ∧ holdCycles n leave s = { s with bus := { s.bus with tcnt := s.bus.tcnt + 1 } }) := by
  by_cases h : n ≤ s.bus.tcnt + 1
  · exact .inl ⟨h, by simp [holdCycles, h]⟩
  · exact .inr ⟨by omega, by simp [holdCycles, h]⟩

@[simp] theorem busRun_nil (s : State) : busRun [] s = s := rfl

@[simp] theorem busRun_cons (z : Bool × Byte) (zs : List (Bool × Byte)) (s : State) :
    busRun (z :: zs) s = busRun zs (busCycle z.1 z.2 s) := rfl

theorem busRun_append (xs ys : List (Bool × Byte)) (s : State) : busRun (xs ++ ys) s = busRun ys (busRun xs s) := by
  simp [busRun, List.foldl_append]

/-- T is the clock frequency: 1000 ms of it (Table P1). -/
theorem timeoutCycles_eq (p : Params) : timeoutCycles p = p.fClk := by
  simp only [timeoutCycles, Config.timeoutMs]; omega

/-! ### Steps -/

theorem step_nil {s : State} (h : s.env = []) : step s = .next s := by simp [step, h]

theorem step_cons {s : State} {e : Event} {rest : List Event} (h : s.env = e :: rest) :
    step s = runEvent e { s with env := rest } := by simp [step, h]

/-- Everything a step can do. -/
theorem step_cases (s : State) :
    (s.env = [] ∧ step s = .next s) ∨
    ∃ e rest, s.env = e :: rest ∧ step s = runEvent e { s with env := rest } := by
  cases h : s.env with
  | nil => exact .inl ⟨rfl, step_nil h⟩
  | cons e rest => exact .inr ⟨e, rest, rfl, step_cons h⟩

end Sys2Proof.Machine
end

