-- ==== Sys2Proof/Laws/PerInstr.lean ====
section
/-! SUPPORT. Per-instruction families: one lemma per constructor of Instr. -/

namespace Sys2Proof.Laws

/-- The encoding of a request begins with its opcode and has the length Table E4 gives (30_encoding.md R83, R88). -/
def EncodingShape.Statement (i : Instr) : Prop :=
  (encode i).head? = some i.opcode ∧ (encode i).length = i.requestLength

theorem EncodingShape.rbwr (b : Byte) : EncodingShape.Statement (.rbwr b) := ⟨rfl, rfl⟩
theorem EncodingShape.rbdrain : EncodingShape.Statement .rbdrain := ⟨rfl, rfl⟩
theorem EncodingShape.rbstat : EncodingShape.Statement .rbstat := ⟨rfl, rfl⟩
theorem EncodingShape.enc (v : Word32) : EncodingShape.Statement (.enc v) := ⟨rfl, rfl⟩
theorem EncodingShape.dec (d0 d1 d2 d3 d4 : Byte) : EncodingShape.Statement (.dec d0 d1 d2 d3 d4) := ⟨rfl, rfl⟩
theorem EncodingShape.fbpush (xs : List Byte) : EncodingShape.Statement (.fbpush xs) := by
  simp [EncodingShape.Statement, encode, encodeL, Instr.opcode, Instr.requestLength]; omega
theorem EncodingShape.validate : EncodingShape.Statement .validate := ⟨rfl, rfl⟩
theorem EncodingShape.fbclear : EncodingShape.Statement .fbclear := ⟨rfl, rfl⟩
theorem EncodingShape.bval (v : Word32) : EncodingShape.Statement (.bval v) := ⟨rfl, rfl⟩
theorem EncodingShape.bdata (xs : List Byte) : EncodingShape.Statement (.bdata xs) := by
  simp [EncodingShape.Statement, encode, encodeL, Instr.opcode, Instr.requestLength]; omega
theorem EncodingShape.xcv (f : List Byte) : EncodingShape.Statement (.xcv f) := by
  simp [EncodingShape.Statement, encode, encodeL, Instr.opcode, Instr.requestLength]; omega
theorem EncodingShape.stat : EncodingShape.Statement .stat := ⟨rfl, rfl⟩

end Sys2Proof.Laws
end

