-- ==== Sys2Proof/Tests/Slice0.lean ====
section
/-! SUPPORT. Small tests whose expected values are written out in spec/ (95_test_vectors.md and the examples of the
operation rules), and, for each statement with hypotheses, a concrete state that meets them. -/

namespace Sys2Proof.Tests

open Sys2Proof Sys2Proof.Machine

/-! ### Helpers -/

/-- The vectors' parameters: RING_N 4, FB_CAP 16, MAX_FRAME 80, DATA_TERM 0x0D (95_test_vectors.md). -/
def base : State := State.resetWith Params.resetChoice

/-- A ring with pointers `i` and `o` and the given slots. -/
def ringState (i o : Byte) (m : Memory) : State := { base with inPtr := i, outPtr := o, ring := m }

/-- A frame buffer. -/
def bufState (b : List Byte) : State := { base with fbuf := b }

/-- A bus controller in state `f`, attempt 1 of sending one byte 0xA5. -/
def busState (f : Fsm) : State :=
  { base with
    bus := { Bus.reset with fsm := f, att := 1, txf := [0xA5], dO := 0xA5, dOe := sending f, clkO := !clockAsserted f }
    cp := { Port.reset with busy := true } }

/-- The CP response after a meaning, none where it stops. -/
def cpRsp : Outcome → Option (List Byte)
  | .next t => some t.cp.rsp
  | _ => none

/-- The WP response after a meaning. -/
def wpRsp : Outcome → Option (List Byte)
  | .next t => some t.wp.rsp
  | _ => none

/-- One fact about the next state. -/
def after {α : Type} (o : Outcome) (f : State → α) : Option α :=
  match o with
  | .next t => some (f t)
  | _ => none

/-- The frame F2 of 95_test_vectors.md §1.2. -/
def f2 : List Byte := [0x02, 0x0D, 0x20, 0x20, 0x20, 0x20, 0x20, 0x25, 0x88, 0x03]

/-! ### Decoding: words written out from Table E2 and Table E4 -/

theorem test_decode_rbwr : decode .wp [0b00010000, 0b01000001] = .ok (.rbwr 0x41, []) := by decide
theorem test_decode_rbdrain : decode .cp [0b00010001] = .ok (.rbdrain, []) := by decide
theorem test_decode_rbstat : decode .cp [0b00010010] = .ok (.rbstat, []) := by decide
theorem test_decode_enc : decode .cp [0b00100000, 0x80, 0x00, 0x00, 0x01] = .ok (.enc 0x80000001, []) := by decide
theorem test_decode_dec : decode .cp [0b00100001, 1, 2, 3, 4, 5] = .ok (.dec 1 2 3 4 5, []) := by decide
theorem test_decode_fbpush : decode .cp [0b00110000, 2, 0x02, 0x03, 0x31] = .ok (.fbpush [0x02, 0x03], [0x31]) := by
  decide
theorem test_decode_validate : decode .cp [0b00110001] = .ok (.validate, []) := by decide
theorem test_decode_fbclear : decode .cp [0b00110010] = .ok (.fbclear, []) := by decide
theorem test_decode_bval : decode .cp [0b01000000, 0x00, 0x00, 0x00, 0x2A] = .ok (.bval 42, []) := by decide
theorem test_decode_bdata : decode .cp [0b01000001, 0] = .ok (.bdata [], []) := by decide
theorem test_decode_xcv : decode .cp [0b01010000, 1, 0xA5] = .ok (.xcv [0xA5], []) := by decide
theorem test_decode_stat : decode .cp [0b01100000] = .ok (.stat, []) := by decide
theorem test_decode_rbwr_on_cp : decode .cp [0x10, 0x41] = .error (.illegalOpcode 0x10) := by decide
theorem test_decode_rbdrain_on_wp : decode .wp [0x11] = .error (.illegalOpcode 0x11) := by decide
theorem test_decode_partial : decode .cp [0x30, 3, 1, 2] = .error .incomplete := by decide
theorem test_table_word_enc : decodeTableWord 8 0x20 = some (.enc 0) := by decide
theorem test_table_word_bdata : decodeTableWord 24 0xFF0141 = some (.bdata [0xFF]) := by decide
theorem test_fetch_word_runs : step (State.reset.withFetchWord 16 0x4110) =
    exec (.rbwr 0x41) { State.reset with wp := { Port.reset with busy := true } } := rfl

/-! ### WellFormed: an ill-formed term for each check -/

theorem test_long_fbpush_refused : (Instr.fbpush (List.replicate 256 0)).wellFormed = false := by
  simp only [Instr.wellFormed, lengthFits, List.length_replicate]; decide
theorem test_long_bdata_refused : (Instr.bdata (List.replicate 256 0)).wellFormed = false := by
  simp only [Instr.wellFormed, lengthFits, List.length_replicate]; decide
theorem test_long_xcv_refused : (Instr.xcv (List.replicate 256 0)).wellFormed = false := by
  simp only [Instr.wellFormed, lengthFits, List.length_replicate]; decide

/-! ### Operations: vectors of 95_test_vectors.md -/

/-- Vector 2.3. -/
theorem test_rbwr_full : wpRsp (exec (.rbwr 0x41) (ringState 2 3 [(3, 0x41)])) = some [0x05] := by decide
/-- Vector 2.4: `in` wraps from 3 to 0. -/
theorem test_rbwr_wraps : after (exec (.rbwr 0x44) (ringState 3 1 [(1, 0x42), (2, 0x43)]))
    (fun t => (t.wp.rsp, t.inPtr, t.ring)) = some ([0x00], 0, [(1, 0x42), (2, 0x43), (3, 0x44)]) := by decide
/-- Vector 2.6. -/
theorem test_rbdrain_wrapped : after (exec .rbdrain (ringState 1 3 [(0, 0x42), (3, 0x41)]))
    (fun t => (t.cp.rsp, t.outPtr)) = some ([0x00, 0x02, 0x41, 0x42], 1) := by decide
/-- Vector 2.5. -/
theorem test_rbdrain_empty : cpRsp (exec .rbdrain base) = some [0x00, 0x00] := by decide
/-- Vector 2.10. -/
theorem test_rbstat_wrapped : cpRsp (exec .rbstat (ringState 1 3 [])) = some [0x00, 1, 3, 2, 0] := by decide
/-- Vector 2.9. -/
theorem test_rbstat_full : cpRsp (exec .rbstat (ringState 3 0 [])) = some [0x00, 3, 0, 3, 2] := by decide
/-- §3.1, v = -500000. -/
theorem test_enc_negative : cpRsp (exec (.enc (-500000)) base) = some [0x00, 0x9F, 0x9F, 0x81, 0x5D, 0x80] := by decide
/-- §3.1, v = -2^31. -/
theorem test_enc_min : cpRsp (exec (.enc 0x80000000) base) = some [0x00, 0x98, 0x20, 0x20, 0x20, 0x20] := by decide
/-- §3.2, first group 119. -/
theorem test_dec_noncanonical : cpRsp (exec (.dec 0x97 0x9F 0x9F 0x9F 0x9F) base) =
    some [0x08, 0x7F, 0xFF, 0xFF, 0xFF] := by decide
/-- §3.2, both invalid and non-canonical. -/
theorem test_dec_bad_digit_first : cpRsp (exec (.dec 0xA0 0x28 0x20 0x20 0x20) base) = some [0x07, 0, 0, 0, 0] := by
  decide
/-- Vector 4.2.9, shortened to a buffer with one free byte. -/
theorem test_fbpush_full : after (exec (.fbpush [0x41, 0x42]) (bufState (List.replicate 15 0x20)))
    (fun t => (t.cp.rsp, t.fbuf.length)) = some ([0x05, 0x01], 16) := by decide
/-- Vector 4.2.7. -/
theorem test_fbpush_empty : cpRsp (exec (.fbpush []) base) = some [0x00, 0x00] := by decide
/-- Vector 4.2.3. -/
theorem test_validate_mismatch :
    after (exec .validate (bufState [0x02, 0x0D, 0x20, 0x20, 0x20, 0x20, 0x20, 0x25, 0x89, 0x03, 0x41]))
      (fun t => (t.cp.rsp, t.fbuf, t.csumErrCnt)) = some ([0x02, 0x88, 0x89], [0x41], 1) := by decide
/-- Vector 4.2.5: node -10. -/
theorem test_validate_negative_node :
    cpRsp (exec .validate (bufState [0x02, 0x00, 0x20, 0x20, 0x20, 0x20, 0x20, 0x20, 0x80, 0x03])) =
      some [0x00, 0x00, 0xFF, 0xF6, 0x0A, 0x02, 0x00, 0x20, 0x20, 0x20, 0x20, 0x20, 0x20, 0x80, 0x03] := by decide
/-- §4.1: an STX inside moves the start of the span. -/
theorem test_validator_later_stx : validateBytes [0x02, 0x0D, 0x02, 0x20, 0xA0, 0x03] =
    .ok 2 5 0x20 22 [0x02, 0x20, 0xA0, 0x03] := by decide
/-- §4.1: a leading ETX is passed over. -/
theorem test_validator_leading_etx : validateBytes [0x03, 0x02, 0x0D, 0x20, 0xAD, 0x03] =
    .ok 1 5 0x0D 3 [0x02, 0x0D, 0x20, 0xAD, 0x03] := by decide
/-- Vector 4.2.11. -/
theorem test_fbclear : after (exec .fbclear (bufState [0x02, 0x41, 0x42])) (fun t => (t.cp.rsp, t.fbuf)) =
    some ([0x00], []) := by decide
/-- §5.1, v = 2^31 - 1. -/
theorem test_bval_max : cpRsp (exec (.bval 0x7FFFFFFF) base) =
    some [0x00, 0x08, 0x02, 0x27, 0x9F, 0x9F, 0x9F, 0x9F, 0xA7, 0x03] := by decide
/-- Vector 5.2.9. -/
theorem test_bdata_not_escaped : cpRsp (exec (.bdata [0x02, 0x03]) base) = some [0x00, 0x03, 0x02, 0x03, 0x0D] := by
  decide
/-- Vector 5.2.4. -/
theorem test_bdata_too_long : cpRsp (exec (.bdata (List.replicate 80 0)) base) = some [0x06] := by decide
/-- §6.2, cycle 0 to 1. -/
theorem test_xcv_starts : after (exec (.xcv [0xA5]) base) (fun t => (t.bus.fsm, t.bus.txf, t.bus.att, t.bus.cause)) =
    some (.chkrdy, [0xA5], 1, 0x00) := by decide
/-- §6.2, cycle 1: ready, drive the first byte. -/
theorem test_bus_drives : (busCycle true 0 (busState .chkrdy)).bus.fsm = .sDrive ∧
    busData (busCycle true 0 (busState .chkrdy)) = some 0xA5 := by decide
/-- §6.2, cycle 16: a valid reply is relayed raw. -/
theorem test_bus_eval : (busCycle true 0 { busState .eval with
    bus := { (busState .eval).bus with rxr := [0x02, 0x80, 0x03] } }).cp.rsp =
      [0x00, 0x01, 0x00, 0x03, 0x02, 0x80, 0x03] := by decide
/-- Vector 6.1.8, last attempt: a reply `03` fails with `NEED_MORE_DATA`. -/
theorem test_bus_gives_up : (busCycle true 0 { busState .eval with
    bus := { (busState .eval).bus with rxr := [0x03], att := 3 } }).cp.rsp = [0x09, 0x03, 0x01, 0x00] := by decide
/-- Vector 7.2. -/
theorem test_stat : cpRsp (exec .stat { bufState [1, 2] with csumErrCnt := 1, timeoutCnt := 3 }) =
    some [0x00, 0x02, 0x00, 0x01, 0x00, 0x03] := by decide
/-- Vector 7.4. -/
theorem test_illegal_opcode : cpRsp (step { base with cp := { Port.reset with inq := [0xFF] }, env := [.cpReq] }) =
    some [0x0F] := by decide
/-- Vector 8.1, its bus controller part. -/
theorem test_reset_cuts_xcv : after (step { busState .rAck with env := [.rst] })
    (fun t => (t.bus.fsm, t.bus.clkO, t.bus.dOe, t.cp.rsp, t.cp.busy)) = some (.idle, true, false, [], false) := by decide

/-! ### Hypotheses that something meets -/

/-- A request half taken and one byte offered, on port `p`. -/
def offering (p : PortId) (dec inq : List Byte) (evs : List Event) : State :=
  { base.setPort p { Port.reset with dec := dec, inq := inq } with env := evs }

/-- A state in the middle of a transfer, a reply byte received, that keeps the invariant. -/
def midTransfer : State :=
  { ringState 1 0 [(0, 0x41)] with
    bus := { Bus.reset with fsm := .rWrel, att := 1, txf := [0xA5], idx := 1, rxr := [0x02] }
    cp := { Port.reset with busy := true } }

/-- The last cycle of a transfer, a valid reply received. -/
def lastCycle : State :=
  { midTransfer with bus := { midTransfer.bus with fsm := .eval, rxr := [0x02, 0x80, 0x03] } }

/-- The turnaround after the last byte sent, nothing received. -/
def turnaround : State :=
  { midTransfer with bus := { midTransfer.bus with fsm := .sTurn, rxr := [] }, env := [.clk true 0] }

theorem midTransfer_inv : midTransfer.Inv := ⟨by decide, by decide, by decide, by decide, by decide⟩
theorem turnaround_inv : turnaround.Inv := ⟨by decide, by decide, by decide, by decide, by decide⟩
theorem lastCycle_inv : lastCycle.Inv := ⟨by decide, by decide, by decide, by decide, by decide⟩

theorem met_DecodeEncodeRoundTrip : (Instr.xcv (List.replicate 255 0)).wellFormed = true := by
  simp only [Instr.wellFormed, lengthFits, List.length_replicate]; decide
theorem met_DecodedBytesAreTheEncoding : decode .cp [0x12, 0x60] = .ok (.rbstat, [0x60]) := by decide
theorem met_StepRunsTheDecodedRequest :
    (offering .wp [0x10] [0x41] [.wpReq]).env = [requestEvent .wp] ∧
    ((offering .wp [0x10] [0x41] [.wpReq]).port .wp).busy = false ∧
    ((offering .wp [0x10] [0x41] [.wpReq]).port .wp).inq = [0x41] ∧
    decode .wp (((offering .wp [0x10] [0x41] [.wpReq]).port .wp).dec ++ [0x41]) = .ok (.rbwr 0x41, []) := by decide
theorem met_RequestPerformedOnItsLastByte : ∀ k ∈ [0, 1, 2],
    (Instr.fbpush []).wellFormed = true ∧
    ((offering .cp [] [0x30, 0x00, 0x60] (List.replicate k .cpReq)).port .cp).busy = false ∧
    ((offering .cp [] [0x30, 0x00, 0x60] (List.replicate k .cpReq)).port .cp).dec = [] ∧
    ((offering .cp [] [0x30, 0x00, 0x60] (List.replicate k .cpReq)).port .cp).inq = encode (.fbpush []) ++ [0x60] ∧
    (offering .cp [] [0x30, 0x00, 0x60] (List.replicate k .cpReq)).env =
      List.replicate k (requestEvent (Instr.fbpush []).port) ++ [] ∧ k ≤ (Instr.fbpush []).requestLength := by decide
theorem met_RequestPerformedOnItsLastByte_format_d : ∀ k ∈ [1, 5],
    (Instr.dec 32 32 32 32 33).wellFormed = true ∧ k < (Instr.dec 32 32 32 32 33).requestLength ∧
    decoderView ((encode (.dec 32 32 32 32 33)).take k) = .collecting 0x21 (6 - k) ∧
    decoderView ((encode (.fbpush [1, 2])).take 1) = .collecting 0x30 1 ∧
    decoderView ((encode (.fbpush [1, 2])).take 2) = .collecting 0x30 2 := by decide
theorem met_IllegalOpcodeAnswered :
    (offering .cp [] [0x10] [.cpReq]).env = [requestEvent .cp] ∧
    ((offering .cp [] [0x10] [.cpReq]).port .cp).inq = [0x10] ∧
    ((offering .cp [] [0x10] [.cpReq]).port .cp).dec = [] ∧
    ((offering .cp [] [0x10] [.cpReq]).port .cp).busy = false ∧
    (0x10 : Byte) ∉ [0x11, 0x12, 0x20, 0x21, 0x30, 0x31, 0x32, 0x40, 0x41, 0x50, (0x60 : Byte)] ∧
    ((offering .wp [] [0x11] [.wpReq]).port .wp).inq = [0x11] ∧ (0x11 : Byte) ≠ 0x10 := by decide
theorem met_BusyPortTakesNothing : ({ midTransfer with env := [.cpReq] } : State).env = [requestEvent .cp] ∧
    (midTransfer.port .cp).busy = true := by decide
theorem met_ResponseDeliveredInOrder : ∀ k ∈ [0, 1, 2],
    ({ base with cp := { Port.reset with busy := true, rsp := [1, 2] }, env := List.replicate k .cpRsp } : State).env =
      List.replicate k (responseEvent .cp) ++ [] ∧ k ≤ [1, (2 : Byte)].length := by decide
/-- The state in which a step performs a CP operation: port busy, no response yet. -/
def fetched : State := { ringState 1 0 [(0, 0x41)] with fbuf := [0x02], cp := { Port.reset with busy := true } }

theorem met_ResponsesHaveTableE3Shape : fetched.params.Legal ∧ RingInv fetched ∧
    fetched.fbuf.length ≤ fetched.params.fbCap ∧ cpRsp (exec .rbdrain fetched) = some [0x00, 1, 0x41] ∧
    cpRsp (exec .validate fetched) = some [0x01] ∧ lastCycle.bus.fsm ≠ .idle ∧
    (busCycle true 0 lastCycle).bus.fsm = .idle := by decide
theorem met_OperationsTouchOnlyTheirState : (after (exec (.rbwr 1) base) State.inPtr) = some 1 := by decide
theorem met_RbwrStoresOrRefuses :
    base.params.Legal ∧
    (ringState 3 0 []).inPtr.toNat < 4 ∧ (3 + 1) % 4 = (ringState 3 0 []).outPtr.toNat ∧
    (ringState 3 1 []).inPtr.toNat < 4 ∧ (3 + 1) % 4 ≠ (ringState 3 1 []).outPtr.toNat := by decide
theorem met_RbdrainReturnsUnread : (ringState 3 0 []).params.Legal ∧
    (ringState 3 0 []).inPtr.toNat < (ringState 3 0 []).params.ringN ∧
    (ringState 3 0 []).outPtr.toNat < (ringState 3 0 []).params.ringN := by decide
theorem met_RbstatReports : (ringState 0 3 []).params.Legal ∧
    (ringState 0 3 []).inPtr.toNat < (ringState 0 3 []).params.ringN ∧
    (ringState 0 3 []).outPtr.toNat < (ringState 0 3 []).params.ringN := by decide
theorem met_RingIsFifo : midTransfer.params.Legal ∧ RingInv midTransfer ∧ unreadBytes midTransfer = [0x41] ∧
    RingInv (ringState 2 2 []) ∧ unreadBytes (ringState 2 2 []) = [] := by decide
theorem met_RingCapacityLaw : (ringState 3 3 []).params.Legal ∧ (ringState 3 3 []).inPtr = (ringState 3 3 []).outPtr ∧
    (ringState 3 3 []).inPtr.toNat < (ringState 3 3 []).params.ringN ∧
    ([1, 2, 3, 4] : List Byte)[2]? = some 3 ∧ 2 < (ringState 3 3 []).params.ringN - 1 ∧
    ([1, 2, 3, 4] : List Byte)[3]? = some 4 ∧ ¬ 3 < (ringState 3 3 []).params.ringN - 1 := by decide
theorem met_DecAnswersValue :
    (∃ d ∈ [(0x1F : Byte), 32, 32, 32, 32], d.toNat < 32 ∨ 159 < d.toNat) ∧
    (∃ d ∈ [(32 : Byte), 32, 32, 32, 160], d.toNat < 32 ∨ 159 < d.toNat) ∧
    (∀ d ∈ [(32 : Byte), 159, 32, 159, 32], 32 ≤ d.toNat ∧ d.toNat ≤ 159) := by decide
theorem met_CanonicalGroupsAreEncoderOutputs :
    (∀ d ∈ [(39 : Byte), 159, 32, 159, 32], 32 ≤ d.toNat ∧ d.toNat ≤ 159) ∧
    (decDigits [39, 159, 32, 159, 32]).1 = .ok ∧ (decDigits [40, 32, 32, 32, 32]).1 = .noncanonical := by decide
theorem met_DecOfEncIsTheValue : cpRsp (exec (.enc (-1)) base) = some [0x00, 0x9F, 0x9F, 0x9F, 0x9F, 0x9F] := by decide
theorem met_ValidatorVerdict : chosenSpan [0x02, 0x80, 0x03] 0 2 ∧ (0x80 : Byte) ||| 0 = 0x80 ∧
    chosenSpan [0x02, 0x03] 0 1 ∧ (0x02 : Byte) ≠ 0x80 := by decide
theorem met_FbpushAppendsWhatFits :
    [(1 : Byte)].length ≤ base.params.fbCap - (List.replicate 15 (0 : Byte)).length ∧
    base.params.fbCap - (List.replicate 15 (0 : Byte)).length < [(1 : Byte), 2].length := by decide
theorem no_span_without_stx : ¬ ∃ j, etxAfterStx (bufState [0x03]).fbuf j := by
  rintro ⟨j, hj, i, hi, -⟩
  have h : ([0x03] : List Byte)[j]? = some Config.etx := hj
  obtain ⟨hlt, -⟩ := List.getElem?_eq_some_iff.mp h
  simp only [List.length_cons, List.length_nil] at hlt
  omega
theorem met_ValidateConsumesOneFrame : chosenSpan (bufState f2).fbuf 0 9 ∧
    (((bufState f2).fbuf.drop 1).take 7).foldl (· ^^^ ·) 0 ||| 0x80 = (0x88 : Byte) ∧
    chosenSpan (bufState [0x02, 0x03]).fbuf 0 1 ∧ ¬ ∃ j, etxAfterStx (bufState [0x03]).fbuf j :=
  ⟨by decide, by decide, by decide, no_span_without_stx⟩
theorem met_FullBufferWithoutFrameIsStuck :
    (bufState (List.replicate 16 0x02)).fbuf.length = base.params.fbCap ∧
    validateBytes (bufState (List.replicate 16 0x02)).fbuf = .needMore ∧
    (∀ i ∈ [Instr.fbpush [0x03], .validate], i ≠ .fbclear) ∧
    (runOps [.fbpush [0x03], .validate] (bufState (List.replicate 16 0x02))).isSome = true := by decide
theorem met_SpanInteriorIsPlain : scan f2 = some (0, 9) := by decide
theorem met_SplitFrameCompletesLater : base.fbuf = [] ∧
    ([0x02] ++ [0x80, 0x03] : List Byte).length ≤ base.params.fbCap ∧ validateBytes [0x02] = .needMore ∧
    validateBytes ([0x02] ++ [0x80, 0x03]) = .ok 0 2 0x80 118 [0x02, 0x80, 0x03] := by decide
theorem met_CommandFrameValidates : ∀ x ∈ [(0x0D : Byte), 0x20, 0x25], plainByte x = true := by decide
theorem met_SingleByteCorruption :
    (∀ z ∈ [(0x0D : Byte), 0x20], plainByte z = true) ∧ 2 + 3 ≤ (commandFrame 0x0D 0x20 []).length ∧
    (commandFrame 0x0D 0x20 [])[1]? = some 0x0D ∧ (commandFrame 0x0D 0x20 [])[2]? = some 0x20 ∧
    (0x21 : Byte) ≠ 0x20 ∧ plainByte 0x21 = true ∧ (0x0D : Byte) ^^^ 0x8D = 0x80 ∧ plainByte 0x8D = true := by decide
theorem met_BvalAnswersValueReply : encDigits 1 = [0x20, 0x20, 0x20, 0x20, 0x21] := by decide
theorem met_ValueReplyValidates : cpRsp (exec (.bval 1) base) =
    some [0x00, 0x08, 0x02, 0x20, 0x20, 0x20, 0x20, 0x21, 0xA1, 0x03] := by decide
theorem met_ValueReplyCarriesItsValue : cpRsp (exec (.bval 1) base) =
    some [0x00, 8, 0x02, 0x20, 0x20, 0x20, 0x20, 0x21, 0xA1, 0x03] := by decide
theorem met_BdataAppendsTerminator : base.params.maxFrame < (List.replicate 80 (0 : Byte)).length + 1 ∧
    (List.replicate 79 (0 : Byte)).length + 1 ≤ base.params.maxFrame := by decide
theorem met_DataReplyCanBeAFrame :
    (∀ x ∈ [(0x0D : Byte), 0x20], plainByte x = true) ∧ (commandFrame 0x0D 0x20 []).length ≤ base.params.maxFrame ∧
    cpRsp (exec (.bdata (commandFrame 0x0D 0x20 []).dropLast)
      { base with params := { Params.resetChoice with dataTerm := 0x03 } }) =
        some [0x00, 0x05, 0x02, 0x0D, 0x20, 0xAD, 0x03] := by decide
theorem met_SendRowsOfTheStateTable :
    (busState .chkrdy).bus.txf = [0xA5] ∧ base.params.setupCycles ≤ (busState .sDrive).bus.tcnt + 1 ∧
    (busState .sWrel).bus.idx + 1 = (busState .sWrel).bus.txf.length ∧
    ({ (busState .sWrel).bus with txf := [0xA5, 0xA6] } : Bus).txf[(busState .sWrel).bus.idx + 1]? = some 0xA6 ∧
    base.params.retryGapCycles ≤ (busState .gap).bus.tcnt + 1 ∧
    (busState .sWack).bus.tcnt + 1 < base.params.fClk ∧ (busState .sWrel).bus.tcnt + 1 < base.params.fClk ∧
    base.params.fClk ≤ ({ (busState .sWack).bus with tcnt := 999 } : Bus).tcnt + 1 ∧ base.bus.fsm = .idle ∧
    (busState .sDrive).bus.tcnt + 1 < ({ Params.resetChoice with setupCycles := 2, retryGapCycles := 2 }).setupCycles ∧
    Params.Legal { Params.resetChoice with setupCycles := 2, retryGapCycles := 2, ackPulseCycles := 2 } := by decide
theorem met_ReceiveRowsOfTheStateTable :
    ([0x02, 0x80, 0x03] : List Byte).getLast? = some 0x03 ∧ (List.replicate 80 (0x41 : Byte)).length = base.params.maxFrame ∧
    midTransfer.bus.rxr.getLast? ≠ some 0x03 ∧ midTransfer.bus.rxr.length < midTransfer.params.maxFrame ∧
    validateBytes lastCycle.bus.rxr = .ok 0 2 0x80 118 [0x02, 0x80, 0x03] ∧ validateBytes [0x03] = .needMore ∧
    validateBytes [0x02, 0x03] = .csum 0 1 0x80 0x02 ∧
    (busState .rWstb).bus.tcnt + 1 < base.params.fClk ∧
    midTransfer.params.fClk ≤ ({ midTransfer.bus with tcnt := 999 } : Bus).tcnt + 1 ∧
    (busState .rAck).bus.tcnt + 1 < ({ Params.resetChoice with ackPulseCycles := 2 }).ackPulseCycles := by decide
theorem met_FailureAction : (busState .sWack).bus.att.toNat < 3 ∧
    ({ (busState .sWack).bus with att := 3 } : Bus).att.toNat = 3 := by decide
theorem met_WaitIsBoundedByT : (busState .sWack).bus.tcnt = 0 ∧
    (waitSeen (busState .sWack).bus.fsm true).isSome = true ∧
    waitSeen (busState .sWack).bus.fsm true = some false ∧ waitSeen (busState .sWrel).bus.fsm false = some false ∧
    (quiet 999).length < base.params.fClk ∧ (quiet 1000).length = base.params.fClk := by
  refine ⟨by decide, by decide, by decide, by decide, ?_, ?_⟩ <;> simp only [quiet, List.length_replicate] <;> decide
theorem met_UnsampledInputsHaveNoEffect : (busState .sDrive).bus.fsm ∉ [Fsm.chkrdy, .sWack, .sWrel, .rWstb, .rWrel] ∧
    (busState .chkrdy).bus.fsm ≠ .rWstb := by decide
theorem met_PromptPeerIsRelayed : base.params.Legal ∧ ([0x02, 0x80, 0x03] : List Byte).length ≤ base.params.maxFrame ∧
    ([0x02, 0x80, 0x03] : List Byte).getLast? = some 0x03 ∧ 0x03 ∉ ([0x02, 0x80, 0x03] : List Byte).dropLast ∧
    validateBytes [0x02, 0x80, 0x03] = .ok 0 2 0x80 118 [0x02, 0x80, 0x03] ∧
    (after (exec (.xcv []) base) State.bus).isSome = true ∧ base.bus.clkO = true ∧ base.bus.dOe = false := by decide
theorem met_DeadPeerIsUnreachable : base.params.Legal ∧ ([0xA5] : List Byte) ≠ [] ∧ (∀ z ∈ quiet 3011, z.1 = true) ∧
    (quiet 3011).length =
      3 * (1 + base.params.setupCycles + 1 + base.params.fClk) + 2 * base.params.retryGapCycles := by
  refine ⟨by decide, by decide, fun z hz => ?_, ?_⟩
  · rw [List.eq_of_mem_replicate hz]
  · simp only [quiet, List.length_replicate]; decide
theorem met_XcvEndsWithinItsBound : base.params.Legal ∧
    xcvBound base.params 1 ≤ (quiet (xcvBound base.params 1)).length := by
  exact ⟨by decide, by simp only [quiet, List.length_replicate]; exact Nat.le_refl _⟩
theorem met_CyclesRefineTheTransaction : ∃ s0, exec (.xcv []) base = .next s0 ∧
    (∀ k, k < (promptPeer base.params [] [0x02, 0x80, 0x03]).length →
      (busRun ((promptPeer base.params [] [0x02, 0x80, 0x03]).take k) s0).bus.fsm ≠ .idle) ∧
    (busRun (promptPeer base.params [] [0x02, 0x80, 0x03]) s0).bus.fsm = .idle :=
  ⟨_, rfl, by decide, by decide⟩
theorem met_EveryDrawSequenceIsRealised : base.params.Legal ∧
    xcvDraws base.params [0xA5] [.ready false, .ready true, .wait false, .ready false] =
      some ([0x09, 0x03, 0x04, 0x00], 1) := by decide
theorem met_XcvEndsWithIdleLines : lastCycle.Inv ∧ lastCycle.bus.fsm ≠ .idle ∧
    (busCycle true 0 lastCycle).bus.fsm = .idle := ⟨lastCycle_inv, by decide, by decide⟩
theorem met_XcvForgetsEarlierTransfers :
    let s2 : State := { base with bus := { Bus.reset with dO := 7, tcnt := 9, txf := [1], idx := 1, rxr := [2], att := 3 } }
    base.params = s2.params ∧ base.cp.rsp = s2.cp.rsp ∧ s2.bus.clkO = true ∧ s2.bus.dOe = false ∧ base.bus ≠ s2.bus := by
  decide
theorem met_CountersAdvanceOnlyAsStated :
    after (step (offering .cp [] [0x31] [.cpReq])) (fun t => t.csumErrCnt) = some 0 ∧
    after (step { offering .cp [] [0x31] [.cpReq] with fbuf := [0x02, 0x03] }) (fun t => t.csumErrCnt) = some 1 ∧
    after (step { busState .sWack with bus := { (busState .sWack).bus with tcnt := 999 }, env := [.clk true 0] })
      (fun t => t.timeoutCnt) = some 1 ∧
    after (step { base with timeoutCnt := 5, env := [.rst] }) (fun t => t.timeoutCnt) = some 0 := by decide
theorem met_ResetAbandonsEverything : ({ midTransfer with env := [.rst, .cpReq] } : State).env = .rst :: [.cpReq] := rfl
theorem met_ResetKeepsTheInvariant : Params.resetChoice.Legal ∧
    Params.Legal { Params.resetChoice with ringN := 2, fbCap := 5 } ∧
    Params.Legal { Params.resetChoice with ringN := 256, fbCap := 255, maxFrame := 254 } := by decide
theorem met_EveryStepKeepsTheInvariant : midTransfer.Inv ∧ turnaround.Inv ∧
    (after (step turnaround) (fun t => (t.bus.fsm, t.bus.rxr))) = some (.rWstb, []) :=
  ⟨midTransfer_inv, turnaround_inv, by decide⟩
/-- `rxr` is cleared on entry to `S_TURN` (R215): a turnaround with a full reply is ruled out. -/
theorem test_full_turnaround_not_inv : ¬ BusInv turnaround.params { turnaround.bus with rxr := [0x02] } := by decide

end Sys2Proof.Tests
end

/-! The ring as a queue (20_memory.md R71): the unread slots as an interval counted mod RING_N, what each operation does
to the queue, and the FIFO guarantee by induction on the run. -/

namespace Sys2Proof.Machine

/-! ### The unread count mod RING_N -/

section Count

variable {s : State} (hi : s.inPtr.toNat < s.params.ringN) (ho : s.outPtr.toNat < s.params.ringN)

include hi ho

/-- The slot after the unread ones is `in_ptr` (10_state.md R27). -/
theorem outPtr_add_ringCount_mod : (s.outPtr.toNat + ringCount s) % s.params.ringN = s.inPtr.toNat := by
  rw [ringCount_eq hi ho]
  split
  · next hle => rw [Nat.add_sub_of_le hle, Nat.mod_eq_of_lt hi]
  · next hgt =>
    rw [Nat.add_sub_of_le (by omega : s.outPtr.toNat ≤ s.inPtr.toNat + s.params.ringN), Nat.add_mod_right,
      Nat.mod_eq_of_lt hi]

/-- The unread count is the only number below RING_N that leads from `out_ptr` to `in_ptr`. -/
theorem ringCount_unique {c : Nat} (hc : c < s.params.ringN)
    (h : (s.outPtr.toNat + c) % s.params.ringN = s.inPtr.toNat) : ringCount s = c := by
  have hmod : s.outPtr.toNat + ringCount s ≡ s.outPtr.toNat + c [MOD s.params.ringN] :=
    (outPtr_add_ringCount_mod hi ho).trans h.symm
  exact hmod.add_left_cancel'.eq_of_lt_of_lt (ringCount_lt (Nat.zero_lt_of_lt hi)) hc

/-- `in_ptr` is no unread slot. -/
theorem inPtr_not_mem_unreadSlots : s.inPtr.toNat ∉ unreadSlots s := by
  simp only [unreadSlots, List.mem_map, List.mem_range]
  rintro ⟨j, hj, hslot⟩
  have hN := ringCount_lt (Nat.zero_lt_of_lt hi)
  have := ringCount_unique hi ho (hj.trans hN) hslot
  omega

theorem nextIn_eq : nextIn s = (s.outPtr.toNat + (ringCount s + 1)) % s.params.ringN := by
  rw [nextIn, ← outPtr_add_ringCount_mod hi ho, Nat.mod_add_mod, Nat.add_assoc]

/-- The ring is full exactly when RING_N - 1 bytes are unread (10_state.md R26). -/
theorem ringFull_iff : ringFull s = true ↔ ringCount s + 1 = s.params.ringN := by
  have hN := ringCount_lt (Nat.zero_lt_of_lt hi)
  rw [ringFull, beq_iff_eq, nextIn_eq hi ho]
  constructor
  · intro hfull
    by_contra hne
    have hmod : s.outPtr.toNat + (ringCount s + 1) ≡ s.outPtr.toNat + 0 [MOD s.params.ringN] :=
      hfull.trans (Nat.mod_eq_of_lt ho).symm
    have := hmod.add_left_cancel'.eq_of_lt_of_lt (by omega) (Nat.zero_lt_of_lt hi)
    omega
  · intro hcount
    rw [hcount, Nat.add_mod_right, Nat.mod_eq_of_lt ho]

end Count

theorem unreadSlots_eq_nil {s : State} (h : s.inPtr = s.outPtr) : unreadSlots s = [] := by
  simp [unreadSlots, ringCount, h]

/-- An index inside a legal ring is not cut off by its byte. -/
theorem indexByte_toNat {n : Nat} (h : n < 256) : (indexByte n).toNat = n := by
  rw [indexByte, BitVec.toNat_ofNat]; exact Nat.mod_eq_of_lt h

/-! ### States with the same ring -/

/-- What the ring's rules speak of is the same in both states. -/
structure SameRing (s t : State) : Prop where
  params : t.params = s.params
  ring : t.ring = s.ring
  inPtr : t.inPtr = s.inPtr
  outPtr : t.outPtr = s.outPtr

theorem SameRing.unreadSlots_eq {s t : State} (h : SameRing s t) : unreadSlots t = unreadSlots s := by
  simp only [unreadSlots, ringCount, h.params, h.inPtr, h.outPtr]

theorem SameRing.slotByte_eq {s t : State} (h : SameRing s t) : slotByte t = slotByte s := by
  funext i; simp only [slotByte, h.ring]

theorem SameRing.unreadBytes_eq {s t : State} (h : SameRing s t) : unreadBytes t = unreadBytes s := by
  simp only [unreadBytes, h.unreadSlots_eq, h.slotByte_eq]

theorem SameRing.ringInv {s t : State} (h : SameRing s t) (hs : RingInv s) : RingInv t := by
  simpa only [RingInv, h.unreadSlots_eq, h.params, h.ring, h.inPtr, h.outPtr] using hs

theorem respond_sameRing (p : PortId) (st : Status) (info : List Byte) (s : State) :
    SameRing s (respond p st info s) :=
  ⟨respond_params .., respond_ring .., respond_inPtr .., respond_outPtr ..⟩

theorem execValidate_sameRing (s : State) : ∃ t, execValidate s = .next t ∧ SameRing s t := by
  unfold execValidate
  cases validateBytes s.fbuf with
  | needMore => exact ⟨_, rfl, rfl, rfl, rfl, rfl⟩
  | csum => exact ⟨_, rfl, rfl, rfl, rfl, rfl⟩
  | ok => exact ⟨_, rfl, rfl, rfl, rfl, rfl⟩

theorem execBdata_sameRing (xs : List Byte) (s : State) : ∃ t, execBdata xs s = .next t ∧ SameRing s t := by
  unfold execBdata
  split
  · exact ⟨_, rfl, rfl, rfl, rfl, rfl⟩
  · exact ⟨_, rfl, rfl, rfl, rfl, rfl⟩

/-- Only `RBWR` and `RBDRAIN` change the ring (40_ring_buffer.md R121); every other operation completes in every state. -/
theorem exec_ring_cases (i : Instr) (s : State) :
    (∃ b, i = .rbwr b) ∨ i = .rbdrain ∨
    ∃ t, exec i s = .next t ∧ SameRing s t ∧ acceptedBy i t = [] ∧ drainedBy i t = [] := by
  cases i with
  | rbwr b => exact .inl ⟨b, rfl⟩
  | rbdrain => exact .inr (.inl rfl)
  | validate =>
    obtain ⟨t, ht, hring⟩ := execValidate_sameRing s
    exact .inr (.inr ⟨t, ht, hring, rfl, rfl⟩)
  | bdata xs =>
    obtain ⟨t, ht, hring⟩ := execBdata_sameRing xs s
    exact .inr (.inr ⟨t, ht, hring, rfl, rfl⟩)
  | rbstat | enc | dec | fbpush | fbclear | bval | xcv | stat =>
    exact .inr (.inr ⟨_, rfl, ⟨rfl, rfl, rfl, rfl⟩, rfl, rfl⟩)

/-! ### `RBWR` on the queue -/

/-- The ring after an accepted write (40_ring_buffer.md R120), the response left out. -/
def stored (b : Byte) (s : State) : State :=
  { s with ring := s.ring.store s.inPtr.toNat b, inPtr := indexByte (nextIn s) }

theorem exec_rbwr_of_full (b : Byte) {s : State} (h : ringFull s = true) :
    exec (.rbwr b) s = .next (respond .wp .full [] s) := by
  simp [exec, execRbwr, h]

theorem exec_rbwr_of_not_full (b : Byte) {s : State} (hi : s.inPtr.toNat < s.params.ringN)
    (h : ringFull s = false) : exec (.rbwr b) s = .next (respond .wp .ok [] (stored b s)) := by
  simp [exec, execRbwr, h, memWrite_of_lt b hi, stored]

/-- An `RBWR` answered `OK` accepted its byte. -/
theorem acceptedBy_ok (b : Byte) (s : State) : acceptedBy (.rbwr b) (respond .wp .ok [] s) = [b] := by
  simp [acceptedBy]

/-- An `RBWR` answered `FULL` accepted nothing. -/
theorem acceptedBy_refused (b : Byte) (s : State) : acceptedBy (.rbwr b) (respond .wp .full [] s) = [] := by
  simp [acceptedBy, statusCode]

section Stored

variable {s : State} (b : Byte) (hp : s.params.Legal) (hs : RingInv s) (hroom : ringFull s = false)

include hp

theorem stored_inPtr_toNat : (stored b s).inPtr.toNat = nextIn s := by
  obtain ⟨hN2, hN256, -⟩ := hp
  have hlt : nextIn s < s.params.ringN := Nat.mod_lt _ (by omega)
  exact indexByte_toNat (hlt.trans_le hN256)

theorem stored_inPtr_lt : (stored b s).inPtr.toNat < s.params.ringN := by
  rw [stored_inPtr_toNat b hp]
  exact Nat.mod_lt _ (by obtain ⟨hN2, -⟩ := hp; omega)

include hs hroom

/-- An accepted write makes one more byte unread. -/
theorem ringCount_stored : ringCount (stored b s) = ringCount s + 1 := by
  obtain ⟨-, -, hi, ho, -⟩ := hs
  have hlt := ringCount_lt (Nat.zero_lt_of_lt hi)
  have hne : ringCount s + 1 ≠ s.params.ringN := fun h => by simp [(ringFull_iff hi ho).mpr h] at hroom
  refine ringCount_unique (s := stored b s) (stored_inPtr_lt b hp) ho (Nat.lt_of_le_of_ne hlt hne) ?_
  rw [stored_inPtr_toNat b hp]
  exact (nextIn_eq hi ho).symm

/-- An accepted write appends `in_ptr` to the unread slots. -/
theorem unreadSlots_stored : unreadSlots (stored b s) = unreadSlots s ++ [s.inPtr.toNat] := by
  have hcount := ringCount_stored b hp hs hroom
  obtain ⟨-, -, hi, ho, -⟩ := hs
  have hlast := outPtr_add_ringCount_mod hi ho
  rw [unreadSlots, hcount, List.range_succ, List.map_append, List.map_singleton]
  exact congrArg (unreadSlots s ++ [·]) hlast

theorem unreadBytes_stored : unreadBytes (stored b s) = unreadBytes s ++ [b] := by
  have hslots := unreadSlots_stored b hp hs hroom
  obtain ⟨-, -, hi, ho, -⟩ := hs
  have hold : ∀ i ∈ unreadSlots s, slotByte (stored b s) i = slotByte s i := fun i hmem => by
    have hne : i ≠ s.inPtr.toNat := fun h => inPtr_not_mem_unreadSlots hi ho (h ▸ hmem)
    simp only [slotByte, stored, lookup_store_of_ne s.ring b hne]
  have hnew : slotByte (stored b s) s.inPtr.toNat = b := by
    simp only [slotByte, stored, lookup_store_self, Option.getD_some]
  rw [unreadBytes, hslots, List.map_append, List.map_singleton, hnew, List.map_congr_left hold, unreadBytes]

theorem stored_ringInv : RingInv (stored b s) := by
  have hslots := unreadSlots_stored b hp hs hroom
  obtain ⟨hwf, hcells, hi, ho, hwritten⟩ := hs
  refine ⟨store_wf _ b hwf, fun c hc => ?_, stored_inPtr_lt b hp, ho, fun i hmem => ?_⟩
  · rcases mem_store hc with rfl | hold
    · exact hi
    · exact hcells c hold
  · show ((s.ring.store s.inPtr.toNat b).lookup i).isSome
    by_cases hne : i = s.inPtr.toNat
    · rw [hne, lookup_store_self]; rfl
    · rw [lookup_store_of_ne _ b hne]
      rw [hslots, List.mem_append, List.mem_singleton] at hmem
      exact hwritten i (hmem.resolve_right hne)

end Stored

/-! ### `RBDRAIN` on the queue -/

/-- The ring after a drain (40_ring_buffer.md R122), the response left out. -/
def drained (s : State) : State := { s with outPtr := s.inPtr }

theorem exec_rbdrain {s : State} (hi : s.inPtr.toNat < s.params.ringN) (ho : s.outPtr.toNat < s.params.ringN) :
    exec .rbdrain s = .next (respond .cp .ok (lenList (unreadBytes s)) (drained s)) := by
  have hread := memReadAll_of_lt (s := s) (unreadSlots_lt (Nat.zero_lt_of_lt hi))
  have hptr : indexByte ((s.outPtr.toNat + ringCount s) % s.params.ringN) = s.inPtr := by
    rw [outPtr_add_ringCount_mod hi ho, indexByte, BitVec.ofNat_toNat, BitVec.setWidth_eq]
  simp only [exec, execRbdrain, hread, hptr, drained, unreadBytes]

theorem unreadSlots_drained (s : State) : unreadSlots (drained s) = [] := unreadSlots_eq_nil rfl

theorem unreadBytes_drained (s : State) : unreadBytes (drained s) = [] := by
  rw [unreadBytes, unreadSlots_drained, List.map_nil]

theorem drained_ringInv {s : State} (hs : RingInv s) : RingInv (drained s) := by
  obtain ⟨hwf, hcells, hi, -, -⟩ := hs
  refine ⟨hwf, hcells, hi, hi, fun i hmem => ?_⟩
  simp [unreadSlots_drained] at hmem

/-! ### One operation, then a run -/

/-- What operation `i` from `s` to `t` does to the queue: the bytes unread before it and those it accepts are those it
drains and those unread after it. -/
structure FifoStep (i : Instr) (s t : State) : Prop where
  params : t.params = s.params
  ringInv : RingInv t
  queue : unreadBytes s ++ acceptedBy i t = drainedBy i t ++ unreadBytes t

theorem exec_rbwr_fifo (b : Byte) {s : State} (hp : s.params.Legal) (hs : RingInv s) :
    ∃ t, exec (.rbwr b) s = .next t ∧ FifoStep (.rbwr b) s t := by
  cases hfull : ringFull s with
  | true =>
    have hring := respond_sameRing .wp .full [] s
    refine ⟨_, exec_rbwr_of_full b hfull, hring.params, hring.ringInv hs, ?_⟩
    rw [acceptedBy_refused, hring.unreadBytes_eq, List.append_nil]
    rfl
  | false =>
    obtain ⟨-, -, hi, -, -⟩ := id hs
    have hring := respond_sameRing .wp .ok [] (stored b s)
    refine ⟨_, exec_rbwr_of_not_full b hi hfull, hring.params, hring.ringInv (stored_ringInv b hp hs hfull), ?_⟩
    rw [acceptedBy_ok, hring.unreadBytes_eq, unreadBytes_stored b hp hs hfull]
    rfl

theorem exec_rbdrain_fifo {s : State} (hs : RingInv s) : ∃ t, exec .rbdrain s = .next t ∧ FifoStep .rbdrain s t := by
  obtain ⟨-, -, hi, ho, -⟩ := id hs
  have hring := respond_sameRing .cp .ok (lenList (unreadBytes s)) (drained s)
  refine ⟨_, exec_rbdrain hi ho, hring.params, hring.ringInv (drained_ringInv hs), ?_⟩
  rw [hring.unreadBytes_eq, unreadBytes_drained]
  rfl

/-- Every operation completes, keeps the ring's invariant and is a step of the queue. -/
theorem exec_fifo (i : Instr) {s : State} (hp : s.params.Legal) (hs : RingInv s) :
    ∃ t, exec i s = .next t ∧ FifoStep i s t := by
  rcases exec_ring_cases i s with ⟨b, rfl⟩ | rfl | ⟨t, ht, hring, hacc, hdr⟩
  · exact exec_rbwr_fifo b hp hs
  · exact exec_rbdrain_fifo hs
  · refine ⟨t, ht, hring.params, hring.ringInv hs, ?_⟩
    rw [hacc, hdr, hring.unreadBytes_eq, List.append_nil, List.nil_append]

theorem runOps_cons {i : Instr} {is : List Instr} {s t u : State} {acc dr : List Byte} (hi : exec i s = .next t)
    (his : runOps is t = some (u, acc, dr)) :
    runOps (i :: is) s = some (u, acceptedBy i t ++ acc, drainedBy i t ++ dr) := by
  simp [runOps, hi, his]

/-- A run of operations is a run of the queue: it completes, and what was unread and what it accepts is what it drains
and what is unread after it. -/
theorem runOps_fifo (ops : List Instr) {s : State} (hp : s.params.Legal) (hs : RingInv s) :
    ∃ t acc dr, runOps ops s = some (t, acc, dr) ∧ RingInv t ∧ unreadBytes s ++ acc = dr ++ unreadBytes t := by
  induction ops generalizing s with
  | nil => exact ⟨s, [], [], rfl, hs, List.append_nil _⟩
  | cons i is ih =>
    obtain ⟨t, ht, hparams, hinv, hqueue⟩ := exec_fifo i hp hs
    obtain ⟨u, acc, dr, hu, huinv, hrest⟩ := ih (hparams ▸ hp) hinv
    refine ⟨u, _, _, runOps_cons ht hu, huinv, ?_⟩
    calc unreadBytes s ++ (acceptedBy i t ++ acc)
        = drainedBy i t ++ (unreadBytes t ++ acc) := by rw [← List.append_assoc, hqueue, List.append_assoc]
      _ = drainedBy i t ++ dr ++ unreadBytes u := by rw [hrest, List.append_assoc]

/-- Settles O15: each operation is a step of the queue (`exec_fifo`), by induction on the run (`runOps_fifo`). -/
theorem ringIsFifo : Obligations.RingIsFifo := by
  unfold Obligations.RingIsFifo
  intro ops s hp hs
  obtain ⟨t, acc, dr, hrun, hinv, hqueue⟩ := runOps_fifo ops hp hs
  obtain ⟨-, -, hi, ho, -⟩ := id hinv
  refine ⟨t, acc, dr, hrun, hinv, hqueue, fun hempty => ?_, _, exec_rbdrain hi ho, rfl, ?_⟩
  · rw [hempty, List.nil_append] at hqueue
    exact ⟨unreadBytes t, hqueue.symm⟩
  · exact (respond_sameRing .cp .ok _ (drained t)).unreadBytes_eq.trans (unreadBytes_drained t)

end Sys2Proof.Machine

/-! The ring's operations one by one (40_ring_buffer.md R120 to R125): what `RBWR`, `RBDRAIN` and `RBSTAT` answer and
leave unchanged, and the capacity law by induction on the writes. Only the pointers' bounds are assumed, so the rules
here are about the queue of unread bytes whatever the slots outside it hold. -/

namespace Sys2Proof.Machine

/-- The unread count is the modular difference of the pointers (10_state.md R27). -/
theorem ringCount_cast {s : State} (hN : 0 < s.params.ringN) :
    (ringCount s : Int) = ((s.inPtr.toNat : Int) - s.outPtr.toNat) % s.params.ringN :=
  Int.toNat_of_nonneg (Int.emod_nonneg _ (by omega))

theorem ringEmpty_iff {s : State} : ringEmpty s = true ↔ s.inPtr = s.outPtr := by rw [ringEmpty, beq_iff_eq]

theorem ringFull_iff_next {s : State} : ringFull s = true ↔ (s.inPtr.toNat + 1) % s.params.ringN = s.outPtr.toNat := by
  rw [ringFull, beq_iff_eq, nextIn]

@[simp] theorem length_unreadBytes (s : State) : (unreadBytes s).length = ringCount s := by
  simp [unreadBytes, unreadSlots]

/-- A ring of at least two slots is never full and empty (R124). -/
theorem ringFull_of_empty {s : State} (hp : s.params.Legal) (hi : s.inPtr.toNat < s.params.ringN)
    (h : s.inPtr = s.outPtr) : ringFull s = false := by
  obtain ⟨hN2, -⟩ := hp
  have hcount : ringCount s = 0 := by simp [ringCount, h]
  have hfull := ringFull_iff hi (h ▸ hi)
  rw [hcount] at hfull
  exact Bool.eq_false_iff.mpr fun hf => by have := hfull.mp hf; omega

/-- The FLAGS byte sets at most one bit, as no legal ring is full and empty at once (R124). -/
theorem ringFlags_eq {s : State} (hp : s.params.Legal) (hi : s.inPtr.toNat < s.params.ringN) :
    ringFlags s = if s.inPtr = s.outPtr then 0x01
      else if (s.inPtr.toNat + 1) % s.params.ringN = s.outPtr.toNat then 0x02 else 0x00 := by
  by_cases hempty : s.inPtr = s.outPtr
  · simp [ringFlags, ringFull_of_empty hp hi hempty, ringEmpty_iff.mpr hempty, hempty]
  · simp [ringFlags, ringEmpty_iff, ringFull_iff_next, hempty]

/-! ### One operation -/

theorem slotByte_stored_self (b : Byte) (s : State) : slotByte (stored b s) s.inPtr.toNat = b := by
  simp only [slotByte, stored, lookup_store_self, Option.getD_some]

theorem slotByte_stored_of_ne (b : Byte) (s : State) {j : Nat} (h : j ≠ s.inPtr.toNat) :
    slotByte (stored b s) j = slotByte s j := by
  simp only [slotByte, stored, lookup_store_of_ne s.ring b h]

/-- Settles O12: the full test decides between the refusal and the one stored slot. -/
theorem rbwrStoresOrRefuses : Obligations.RbwrStoresOrRefuses := by
  unfold Obligations.RbwrStoresOrRefuses
  intro b s hp hi ho
  refine ⟨rfl, rfl, fun hfull => exec_rbwr_of_full b (ringFull_iff_next.mpr hfull), fun hroom => ?_⟩
  have hnot : ringFull s = false := Bool.eq_false_iff.mpr fun h => hroom (ringFull_iff_next.mp h)
  have hring := respond_sameRing .wp .ok [] (stored b s)
  refine ⟨_, exec_rbwr_of_not_full b hi hnot, rfl, stored_inPtr_toNat b hp, ?_, fun j hj => ?_⟩
  · rw [hring.slotByte_eq, slotByte_stored_self]
  · rw [hring.slotByte_eq, slotByte_stored_of_ne b s hj]

/-- Settles O13: the drain answers the unread bytes (`exec_rbdrain`), whose number is the pointers' difference. -/
theorem rbdrainReturnsUnread : Obligations.RbdrainReturnsUnread := by
  unfold Obligations.RbdrainReturnsUnread
  intro s hp hi ho
  refine ⟨ringCount s, ringCount_cast (Nat.zero_lt_of_lt hi), rfl, rfl, ?_⟩
  rw [exec_rbdrain hi ho, lenList, lenByte, length_unreadBytes, unreadBytes, unreadSlots, List.map_map]
  rfl

/-- Settles O14: the flags byte is the exclusive one (`ringFlags_eq`). -/
theorem rbstatReports : Obligations.RbstatReports := by
  unfold Obligations.RbstatReports
  intro s hp hi ho
  refine ⟨ringCount s, ringCount_cast (Nat.zero_lt_of_lt hi), rfl, rfl, ?_⟩
  rw [← ringFlags_eq hp hi]
  rfl

/-! ### A run of writes -/

/-- A ring built with `p`, its pointers inside it, whose unread bytes are `xs`, oldest first. -/
structure RingHolds (p : Params) (xs : List Byte) (s : State) : Prop where
  params : s.params = p
  inPtr_lt : s.inPtr.toNat < s.params.ringN
  outPtr_lt : s.outPtr.toNat < s.params.ringN
  unread : unreadBytes s = xs

theorem SameRing.ringHolds {p : Params} {xs : List Byte} {s t : State} (h : SameRing s t) (hs : RingHolds p xs s) :
    RingHolds p xs t := by
  obtain ⟨rfl, hi, ho, rfl⟩ := hs
  exact ⟨h.params, by rwa [h.inPtr, h.params], by rwa [h.outPtr, h.params], h.unreadBytes_eq⟩

theorem ringHolds_of_empty {s : State} (h : s.inPtr = s.outPtr) (hi : s.inPtr.toNat < s.params.ringN) :
    RingHolds s.params [] s :=
  ⟨rfl, hi, h ▸ hi, by rw [unreadBytes, unreadSlots_eq_nil h, List.map_nil]⟩

section Writes

variable {p : Params} {xs : List Byte} {s : State} (hp : p.Legal) (hs : RingHolds p xs s)

include hs

/-- A ring is full exactly when it holds RING_N - 1 bytes (10_state.md R26). -/
theorem RingHolds.ringFull_iff : ringFull s = true ↔ xs.length + 1 = p.ringN := by
  obtain ⟨rfl, hi, ho, rfl⟩ := hs
  rw [length_unreadBytes, Machine.ringFull_iff hi ho]

theorem RingHolds.length_lt : xs.length < p.ringN := by
  obtain ⟨rfl, hi, ho, rfl⟩ := hs
  rw [length_unreadBytes]
  exact ringCount_lt (Nat.zero_lt_of_lt hi)

include hp

/-- A stored byte joins the unread ones at their end (R120). -/
theorem RingHolds.stored (b : Byte) (hroom : ringFull s = false) : RingHolds p (xs ++ [b]) (stored b s) := by
  have hfree : xs.length + 1 ≠ p.ringN := fun h => by simp [hs.ringFull_iff.mpr h] at hroom
  have hlt := hs.length_lt
  obtain ⟨rfl, hi, ho, rfl⟩ := hs
  rw [length_unreadBytes] at hfree hlt
  have hi' := stored_inPtr_lt b hp
  have hcount : ringCount (Machine.stored b s) = ringCount s + 1 := by
    refine ringCount_unique hi' ho (Nat.lt_of_le_of_ne hlt hfree) ?_
    rw [stored_inPtr_toNat b hp]
    exact (nextIn_eq hi ho).symm
  have hslots : unreadSlots (Machine.stored b s) = unreadSlots s ++ [s.inPtr.toNat] := by
    rw [unreadSlots, hcount, List.range_succ, List.map_append, List.map_singleton]
    exact congrArg (unreadSlots s ++ [·]) (outPtr_add_ringCount_mod hi ho)
  have hold : ∀ i ∈ unreadSlots s, slotByte (Machine.stored b s) i = slotByte s i := fun i hmem =>
    slotByte_stored_of_ne b s fun h => inPtr_not_mem_unreadSlots hi ho (h ▸ hmem)
  refine ⟨rfl, hi', ho, ?_⟩
  rw [unreadBytes, hslots, List.map_append, List.map_singleton, slotByte_stored_self, List.map_congr_left hold,
    unreadBytes]

/-- One write: accepted exactly while a slot is free, and then the byte is the last unread one (R120). -/
theorem RingHolds.exec_rbwr (b : Byte) :
    ∃ t, exec (.rbwr b) s = .next t ∧ RingHolds p (xs ++ [b].take (p.ringN - 1 - xs.length)) t ∧
      acceptedBy (.rbwr b) t = [b].take (p.ringN - 1 - xs.length) ∧
      t.wp.rsp = if xs.length < p.ringN - 1 then [0x00] else [0x05] := by
  have hlt := hs.length_lt
  cases hfull : ringFull s with
  | true =>
    have hlen := hs.ringFull_iff.mp hfull
    have hnone : p.ringN - 1 - xs.length = 0 := by omega
    refine ⟨_, exec_rbwr_of_full b hfull, ?_, ?_, ?_⟩
    · rw [hnone, List.take_zero, List.append_nil]
      exact (respond_sameRing ..).ringHolds hs
    · rw [hnone, List.take_zero, acceptedBy_refused]
    · rw [if_neg (by omega)]; rfl
  | false =>
    have hlen : xs.length + 1 ≠ p.ringN := fun h => by simp [hs.ringFull_iff.mpr h] at hfull
    have htake : [b].take (p.ringN - 1 - xs.length) = [b] := List.take_of_length_le (by simp; omega)
    refine ⟨_, exec_rbwr_of_not_full b hs.inPtr_lt hfull, ?_, ?_, ?_⟩
    · rw [htake]
      exact (respond_sameRing ..).ringHolds (hs.stored hp b hfull)
    · rw [htake, acceptedBy_ok]
    · rw [if_pos (by omega)]; rfl

end Writes

/-- A run of writes: the bytes accepted are the first ones, as many as there are free slots but one, and they join the
unread bytes in order (R125). -/
theorem runOps_rbwr {p : Params} (hp : p.Legal) (bs : List Byte) {xs : List Byte} {s : State} (hs : RingHolds p xs s) :
    ∃ t, runOps (bs.map .rbwr) s = some (t, bs.take (p.ringN - 1 - xs.length), []) ∧
      RingHolds p (xs ++ bs.take (p.ringN - 1 - xs.length)) t := by
  induction bs generalizing xs s with
  | nil => exact ⟨s, by simp [runOps], by simpa using hs⟩
  | cons b bs ih =>
    obtain ⟨t, ht, hhold, hacc, -⟩ := hs.exec_rbwr hp b
    obtain ⟨u, hu, huhold⟩ := ih hhold
    have hsplit : [b].take (p.ringN - 1 - xs.length) ++
        bs.take (p.ringN - 1 - (xs ++ [b].take (p.ringN - 1 - xs.length)).length) =
        (b :: bs).take (p.ringN - 1 - xs.length) := by
      rw [← List.singleton_append (l := bs), List.take_append]
      congr 2
      simp only [List.length_append, List.length_take, List.length_singleton]
      omega
    refine ⟨u, ?_, ?_⟩
    · rw [← hsplit, ← hacc]
      exact runOps_cons ht (hacc ▸ hu)
    · rwa [← hsplit, ← List.append_assoc]

/-- From an empty ring the first RING_N - 1 writes are accepted (R125). -/
theorem runOps_rbwr_of_empty (bs : List Byte) {s : State} (hp : s.params.Legal) (hempty : s.inPtr = s.outPtr)
    (hi : s.inPtr.toNat < s.params.ringN) :
    ∃ t, runOps (bs.map .rbwr) s = some (t, bs.take (s.params.ringN - 1), []) ∧
      RingHolds s.params (bs.take (s.params.ringN - 1)) t := by
  simpa only [List.length_nil, Nat.sub_zero, List.nil_append] using runOps_rbwr hp bs (ringHolds_of_empty hempty hi)

theorem runOps_append {is js : List Instr} {s t u : State} {acc acc' dr dr' : List Byte}
    (h : runOps is s = some (t, acc, dr)) (h' : runOps js t = some (u, acc', dr')) :
    runOps (is ++ js) s = some (u, acc ++ acc', dr ++ dr') := by
  induction is generalizing s acc dr with
  | nil => cases h; exact h'
  | cons i is ih =>
    simp only [runOps] at h
    split at h
    · next r hr =>
      split at h
      · next v a d hv =>
        cases h
        rw [List.append_assoc, List.append_assoc]
        exact runOps_cons hr (ih hv)
      · cases h
    · cases h

/-- A drain alone, as a run: it accepts nothing and drains what is unread (R122). -/
theorem RingHolds.runOps_rbdrain {p : Params} {xs : List Byte} {s : State} (hs : RingHolds p xs s) :
    ∃ t, runOps [.rbdrain] s = some (t, [], xs) := by
  obtain ⟨rfl, hi, ho, rfl⟩ := hs
  have hrun := runOps_cons (is := []) (exec_rbdrain hi ho) rfl
  rw [List.append_nil, List.append_nil] at hrun
  exact ⟨_, hrun⟩

/-- Settles O16: a run of writes from an empty ring fills its RING_N - 1 usable slots (`runOps_rbwr_of_empty`); the drain
answers what the ring then holds, and a further write's status is by the number it holds. -/
theorem ringCapacityLaw : Obligations.RingCapacityLaw := by
  unfold Obligations.RingCapacityLaw
  intro bs s hp hempty hi
  refine ⟨?_, fun k b hk => ?_⟩
  · obtain ⟨t, ht, hhold⟩ := runOps_rbwr_of_empty bs hp hempty hi
    obtain ⟨u, hu⟩ := hhold.runOps_rbdrain
    have hrun := runOps_append ht hu
    rw [List.append_nil, List.nil_append] at hrun
    exact ⟨u, hrun⟩
  · obtain ⟨hklt, -⟩ := List.getElem?_eq_some_iff.mp hk
    obtain ⟨u, hu, hhold⟩ := runOps_rbwr_of_empty (bs.take k) hp hempty hi
    obtain ⟨v, hv, -, -, hrsp⟩ := hhold.exec_rbwr hp b
    have hheld : ((bs.take k).take (s.params.ringN - 1)).length < s.params.ringN - 1 ↔ k < s.params.ringN - 1 := by
      simp only [List.length_take]
      omega
    exact ⟨u, v, hu, hv, by rw [hrsp]; simp only [hheld]⟩

end Sys2Proof.Machine

/-! The base-128 codec (41_codec.md). The encoder's digits are the base-128 digits of the value's 35-bit
two's-complement pattern, and the decoder's raw value of them is that pattern again; so the encoder's outputs are the
valid groups whose raw value is a pattern, and those are the canonical ones. -/

namespace Sys2Proof.Machine

/-! ### The 35-bit pattern -/

/-- The 35-bit two's-complement pattern of a value, as a number (R140). -/
def pattern35 (v : Word32) : Nat := (v.signExtend 35).toNat

/-- The sign extension adds the three bits above bit 31. -/
theorem pattern35_eq (v : Word32) :
    pattern35 v = if v.toNat < 2 ^ 31 then v.toNat else v.toNat + 7 * 2 ^ 32 := by
  have hmod : v.toNat % 2 ^ 35 = v.toNat := Nat.mod_eq_of_lt (by omega)
  rw [pattern35, BitVec.toNat_signExtend, BitVec.toNat_setWidth, hmod, BitVec.msb_eq_decide]
  by_cases hpos : v.toNat < 2 ^ 31
  · rw [if_pos hpos, decide_eq_false (Nat.not_le.mpr hpos)]; rfl
  · rw [if_neg hpos, decide_eq_true (Nat.not_lt.mp hpos)]; rfl

theorem pattern35_lt (v : Word32) : pattern35 v < 2 ^ 35 := (v.signExtend 35).isLt

/-- The low 32 bits of the pattern are the value. -/
theorem ofNat_pattern35 (v : Word32) : BitVec.ofNat 32 (pattern35 v) = v := by
  have hv := v.isLt
  apply BitVec.eq_of_toNat_eq
  rw [BitVec.toNat_ofNat, pattern35_eq]
  split <;> omega

theorem canonicalRaw_iff {r : Nat} (hr : r < 2 ^ 35) : canonicalRaw r = true ↔ r / 2 ^ 31 = 0 ∨ r / 2 ^ 31 = 15 := by
  have hbits : r / 2 ^ 31 % 16 = r / 2 ^ 31 := Nat.mod_eq_of_lt (by omega)
  simp only [canonicalRaw, hbits, Bool.or_eq_true, beq_iff_eq]

/-- The canonical raw values are the patterns: those whose low 32 bits extend back to them (R145). -/
theorem pattern35_ofNat_eq_iff {r : Nat} (hr : r < 2 ^ 35) :
    pattern35 (BitVec.ofNat 32 r) = r ↔ canonicalRaw r = true := by
  rw [canonicalRaw_iff hr, pattern35_eq, BitVec.toNat_ofNat]
  split <;> omega

theorem canonicalRaw_pattern35 (v : Word32) : canonicalRaw (pattern35 v) = true := by
  rw [← pattern35_ofNat_eq_iff (pattern35_lt v), ofNat_pattern35]

/-! ### The encoder -/

/-- A digit of the arithmetic shift is seven bits of the sign-extended pattern: no shift of the encoder reaches past
bit 34 (R140). -/
theorem encDigit_eq_extractLsb' (v : Word32) {k : Nat} (hk : k ≤ 28) :
    encDigit v k = ((v.signExtend 35).extractLsb' k 7).setWidth 8 + 32 := by
  have hbits : ((v.sshiftRight k) &&& 0x7F#32).setWidth 8 = ((v.signExtend 35).extractLsb' k 7).setWidth 8 := by
    have hmask : ∀ i < 8, (0x7F#32).getLsbD i = decide (i < 7) := by decide
    refine BitVec.eq_of_getLsbD_eq fun i hi => ?_
    simp only [BitVec.getLsbD_setWidth, BitVec.getLsbD_and, BitVec.getLsbD_sshiftRight, BitVec.getLsbD_extractLsb',
      BitVec.getLsbD_signExtend, hmask i hi]
    grind
  rw [encDigit, hbits]
  rfl

/-- A digit as a number: a base-128 digit of the pattern, plus 32. -/
theorem encDigit_toNat (v : Word32) {k : Nat} (hk : k ≤ 28) :
    (encDigit v k).toNat = pattern35 v / 2 ^ k % 128 + 32 := by
  rw [encDigit_eq_extractLsb' v hk, BitVec.toNat_add, BitVec.toNat_setWidth, BitVec.extractLsb'_toNat, ← pattern35,
    Nat.shiftRight_eq_div_pow]
  have hlt : pattern35 v / 2 ^ k % 2 ^ 7 < 128 := Nat.mod_lt _ (by decide)
  simp; omega

theorem encDigits_eq (v : Word32) :
    encDigits v = [encDigit v 28, encDigit v 21, encDigit v 14, encDigit v 7, encDigit v 0] := rfl

theorem validDigit_iff {d : Byte} : validDigit d = true ↔ 32 ≤ d.toNat ∧ d.toNat ≤ 159 := decide_eq_true_iff

theorem validDigit_encDigit (v : Word32) {k : Nat} (hk : k ≤ 28) : validDigit (encDigit v k) = true := by
  rw [validDigit_iff, encDigit_toNat v hk]
  omega

theorem validDigit_of_mem_encDigits {v : Word32} {d : Byte} (hd : d ∈ encDigits v) : validDigit d = true := by
  obtain ⟨k, hk, rfl⟩ := List.mem_map.mp hd
  have hshifts : ∀ k ∈ [28, 21, 14, 7, 0], k ≤ 28 := by decide
  exact validDigit_encDigit v (hshifts k hk)

/-! ### Raw values -/

theorem rawValue_eq (d0 d1 d2 d3 d4 : Byte) :
    rawValue [d0, d1, d2, d3, d4] = (d0.toNat - 32) * 2 ^ 28 + (d1.toNat - 32) * 2 ^ 21 + (d2.toNat - 32) * 2 ^ 14 +
      (d3.toNat - 32) * 2 ^ 7 + (d4.toNat - 32) := by
  simp only [rawValue, Config.digitOffset, List.foldl_cons, List.foldl_nil]
  omega

section Valid

variable {d0 d1 d2 d3 d4 : Byte} (hvalid : ∀ d ∈ [d0, d1, d2, d3, d4], 32 ≤ d.toNat ∧ d.toNat ≤ 159)

include hvalid

theorem rawValue_lt : rawValue [d0, d1, d2, d3, d4] < 2 ^ 35 := by
  simp only [List.forall_mem_cons] at hvalid
  rw [rawValue_eq]
  omega

/-- A valid group is the encoder's output for `v` exactly when its raw value is the pattern of `v`: the digits of a
base-128 number are unique. -/
theorem encDigits_eq_iff {v : Word32} :
    encDigits v = [d0, d1, d2, d3, d4] ↔ pattern35 v = rawValue [d0, d1, d2, d3, d4] := by
  have hlt := pattern35_lt v
  simp only [List.forall_mem_cons] at hvalid
  simp only [encDigits_eq, List.cons.injEq, and_true, ← BitVec.toNat_inj, rawValue_eq,
    encDigit_toNat v (Nat.le_refl 28), encDigit_toNat v (by decide : 21 ≤ 28), encDigit_toNat v (by decide : 14 ≤ 28),
    encDigit_toNat v (by decide : 7 ≤ 28), encDigit_toNat v (by decide : 0 ≤ 28)]
  omega

end Valid

/-- The raw value of the encoder's digits is the pattern again. -/
theorem rawValue_encDigits (v : Word32) : rawValue (encDigits v) = pattern35 v := by
  have hvalid : ∀ d ∈ encDigits v, 32 ≤ d.toNat ∧ d.toNat ≤ 159 := fun d hd =>
    validDigit_iff.mp (validDigit_of_mem_encDigits hd)
  exact ((encDigits_eq_iff hvalid).mp (encDigits_eq v)).symm

/-! ### The decoder -/

theorem decDigits_of_valid {ds : List Byte} (h : ∀ d ∈ ds, validDigit d = true) :
    decDigits ds =
      (if canonicalRaw (rawValue ds) then .ok else .noncanonical, BitVec.ofNat 32 (rawValue ds)) := by
  rw [decDigits, if_pos (List.all_eq_true.mpr h)]

theorem decDigits_of_invalid {ds : List Byte} (h : ¬ ∀ d ∈ ds, validDigit d = true) :
    decDigits ds = (.badDigit, 0) := by
  rw [decDigits, if_neg fun hall => h (List.all_eq_true.mp hall)]

/-- `OK` is reported for the valid groups with a canonical raw value only (R146). -/
theorem decDigits_ok_iff {ds : List Byte} (h : ∀ d ∈ ds, validDigit d = true) :
    (decDigits ds).1 = .ok ↔ canonicalRaw (rawValue ds) = true := by
  simp [decDigits_of_valid h]

/-- The decoder inverts the encoder (R147). -/
theorem decDigits_encDigits (v : Word32) : decDigits (encDigits v) = (.ok, v) := by
  rw [decDigits_of_valid fun _ => validDigit_of_mem_encDigits, rawValue_encDigits, if_pos (canonicalRaw_pattern35 v),
    ofNat_pattern35]

/-- The bytes of a 32-bit field, from the exact number it is cut from. -/
theorem be32_ofNat (r : Nat) : be32 (BitVec.ofNat 32 r) =
    [BitVec.ofNat 8 (r / 2 ^ 24), BitVec.ofNat 8 (r / 2 ^ 16), BitVec.ofNat 8 (r / 2 ^ 8), BitVec.ofNat 8 r] := by
  have hbyte : ∀ k ≤ 24, (BitVec.ofNat 32 r).extractLsb' k 8 = BitVec.ofNat 8 (r / 2 ^ k) := fun k hk => by
    refine BitVec.eq_of_getLsbD_eq fun i hi => ?_
    simp only [BitVec.getLsbD_extractLsb', BitVec.getLsbD_ofNat, Nat.testBit_div_two_pow]
    grind
  simp [be32, hbyte]

theorem exec_enc (v : Word32) (s : State) :
    exec (.enc v) s = .next { s with cp := { s.cp with rsp := 0x00 :: encDigits v } } := rfl

theorem exec_dec (d0 d1 d2 d3 d4 : Byte) (s : State) :
    exec (.dec d0 d1 d2 d3 d4) s =
      .next { s with cp := { s.cp with
        rsp := statusCode (decDigits [d0, d1, d2, d3, d4]).1 :: be32 (decDigits [d0, d1, d2, d3, d4]).2 } } := rfl

/-! ### The statements -/

/-- Settles O18: every digit is seven bits of the pattern (`encDigit_eq_extractLsb'`). -/
theorem encAnswersDigits : Obligations.EncAnswersDigits := by
  unfold Obligations.EncAnswersDigits
  intro v s
  have hdigits : encDigits v = (List.range 5).map fun i =>
      (((v.signExtend 35).extractLsb' (28 - 7 * i) 7).setWidth 8 + 32 : Byte) :=
    calc encDigits v
        = (List.range 5).map fun i => encDigit v (28 - 7 * i) := rfl
      _ = _ := List.map_congr_left fun i _ => encDigit_eq_extractLsb' v (Nat.sub_le 28 (7 * i))
  exact ⟨rfl, rfl, by rw [exec_enc, hdigits]⟩

/-- Settles O19: the first digit is the pattern's top seven bits, plus 32 (`encDigit_toNat`). -/
theorem encDigitsInRange : Obligations.EncDigitsInRange := by
  unfold Obligations.EncDigitsInRange
  intro v
  have hv := v.isLt
  have hfirst := encDigit_toNat v (Nat.le_refl 28)
  rw [pattern35_eq] at hfirst
  refine ⟨_, _, _, _, _, encDigits_eq v, fun hpos => ?_, fun hneg => ?_, fun d hd => ?_⟩
  · rw [BitVec.toInt_eq_toNat_cond] at hpos
    rw [if_pos (by omega)] at hfirst
    omega
  · rw [BitVec.toInt_eq_toNat_cond] at hneg
    rw [if_neg (by omega)] at hfirst
    omega
  · obtain ⟨hlo, hhi⟩ := validDigit_iff.mp (validDigit_of_mem_encDigits hd)
    refine ⟨hlo, hhi, ?_, ?_⟩
    · rintro rfl; exact absurd hlo (by decide)
    · rintro rfl; exact absurd hlo (by decide)

/-- Settles O20: the digits are all valid or one is not, and the raw value's bytes are those of its low 32 bits
(`be32_ofNat`). -/
theorem decAnswersValue : Obligations.DecAnswersValue := by
  unfold Obligations.DecAnswersValue
  intro d0 d1 d2 d3 d4 s
  refine ⟨rfl, rfl, fun ⟨d, hd, hout⟩ => ?_, fun hvalid => ?_⟩
  · have hinvalid : ¬ ∀ d ∈ [d0, d1, d2, d3, d4], validDigit d = true := fun hall => by
      have := validDigit_iff.mp (hall d hd)
      omega
    rw [exec_dec, decDigits_of_invalid hinvalid]
    rfl
  · have hlt := rawValue_lt hvalid
    refine ⟨rawValue [d0, d1, d2, d3, d4], rawValue_eq .., hlt, ?_⟩
    rw [exec_dec, decDigits_of_valid fun d hd => validDigit_iff.mpr (hvalid d hd), be32_ofNat]
    simp only [canonicalRaw_iff hlt]
    split <;> rfl

/-- Settles O21: a valid group is the encoder's output exactly when its raw value is a 35-bit pattern
(`encDigits_eq_iff`), and those are the canonical raw values (`pattern35_ofNat_eq_iff`). -/
theorem canonicalGroupsAreEncoderOutputs : Obligations.CanonicalGroupsAreEncoderOutputs := by
  unfold Obligations.CanonicalGroupsAreEncoderOutputs
  intro d0 d1 d2 d3 d4 hvalid r
  have hlt : r < 2 ^ 35 := rawValue_lt hvalid
  have hdigits : ∀ d ∈ [d0, d1, d2, d3, d4], validDigit d = true := fun d hd => validDigit_iff.mpr (hvalid d hd)
  have hok : (decDigits [d0, d1, d2, d3, d4]).1 = .ok ↔ r / 2 ^ 31 = 0 ∨ r / 2 ^ 31 = 15 :=
    (decDigits_ok_iff hdigits).trans (canonicalRaw_iff hlt)
  have hpattern : (decDigits [d0, d1, d2, d3, d4]).1 = .ok → pattern35 (BitVec.ofNat 32 r) = r := fun h =>
    (pattern35_ofNat_eq_iff hlt).mpr ((decDigits_ok_iff hdigits).mp h)
  refine ⟨hok, hok.trans ?_, ⟨fun h => ?_, fun ⟨v, hv⟩ => ?_⟩, fun h => ?_⟩
  · have hr : r = _ := rawValue_eq d0 d1 d2 d3 d4
    simp only [List.forall_mem_cons] at hvalid
    omega
  · exact ⟨_, (encDigits_eq_iff hvalid).mpr (hpattern h)⟩
  · rw [← hv, decDigits_encDigits]
  · have hextend : (BitVec.ofNat 32 r).signExtend 35 = BitVec.ofNat 35 r := by
      apply BitVec.eq_of_toNat_eq
      rw [BitVec.toNat_ofNat, Nat.mod_eq_of_lt hlt]
      exact hpattern h
    rw [decDigits_of_valid hdigits, ← hextend, BitVec.toInt_signExtend_of_le (by decide)]

/-- Settles O22: the decoder inverts the encoder (`decDigits_encDigits`). -/
theorem decOfEncIsTheValue : Obligations.DecOfEncIsTheValue := by
  unfold Obligations.DecOfEncIsTheValue
  intro v s t d0 d1 d2 d3 d4 henc hrsp
  rw [exec_enc] at henc
  cases henc
  obtain ⟨-, hdigits⟩ := List.cons.inj hrsp
  rw [exec_dec, ← hdigits, decDigits_encDigits]
  rfl

/-- Settles O23: for a valid group both sides say that its raw value is a pattern; an invalid one is no output of the
encoder. -/
theorem encOfDecIsTheGroup : Obligations.EncOfDecIsTheGroup := by
  unfold Obligations.EncOfDecIsTheGroup
  intro d0 d1 d2 d3 d4
  by_cases hvalid : ∀ d ∈ [d0, d1, d2, d3, d4], validDigit d = true
  · have hrange : ∀ d ∈ [d0, d1, d2, d3, d4], 32 ≤ d.toNat ∧ d.toNat ≤ 159 := fun d hd =>
      validDigit_iff.mp (hvalid d hd)
    rw [decDigits_ok_iff hvalid, decDigits_of_valid hvalid, encDigits_eq_iff hrange,
      pattern35_ofNat_eq_iff (rawValue_lt hrange)]
  · refine ⟨fun h => ?_, fun h => ?_⟩
    · exact absurd (fun d hd => validDigit_of_mem_encDigits (h ▸ hd)) hvalid
    · rw [decDigits_of_invalid hvalid] at h
      cases h

end Sys2Proof.Machine

/-! The scan of the framer (42_framer.md R161). The scan carries the last STX of the part it has read; by induction on
the rest of the list it ends at the first ETX that has an STX before it. -/

namespace Sys2Proof.Machine

/-! ### One byte of the scan -/

@[simp] theorem scanFrom_stx (b : List Byte) (i : Nat) (last : Option Nat) :
    scanFrom (Config.stx :: b) i last = scanFrom b (i + 1) (some i) := rfl

@[simp] theorem scanFrom_etx_some (b : List Byte) (i s : Nat) :
    scanFrom (Config.etx :: b) i (some s) = some (s, i) := rfl

@[simp] theorem scanFrom_etx_none (b : List Byte) (i : Nat) :
    scanFrom (Config.etx :: b) i none = scanFrom b (i + 1) none := rfl

theorem plainByte_iff {c : Byte} : plainByte c = true ↔ c ≠ Config.stx ∧ c ≠ Config.etx := by simp [plainByte]

theorem scanFrom_plain {c : Byte} (hc : plainByte c = true) (b : List Byte) (i : Nat) (last : Option Nat) :
    scanFrom (c :: b) i last = scanFrom b (i + 1) last := by
  obtain ⟨hstx, hetx⟩ := plainByte_iff.mp hc
  simp [scanFrom, hstx, hetx]

/-- Every byte is STX, ETX or plain (30_encoding.md R97). -/
theorem byte_cases (c : Byte) : c = Config.stx ∨ c = Config.etx ∨ plainByte c = true := by
  rw [plainByte_iff]; tauto

/-! ### Positions of a list that is extended -/

theorem holdsAt_lt {b : List Byte} {j : Nat} {d : Byte} (h : holdsAt b j d) : j < b.length :=
  (List.getElem?_eq_some_iff.mp h).1

theorem holdsAt_append_left {b : List Byte} (r : List Byte) {j : Nat} {d : Byte} (hj : j < b.length) :
    holdsAt (b ++ r) j d ↔ holdsAt b j d := by rw [holdsAt, List.getElem?_append_left hj]

theorem holdsAt_snoc {b : List Byte} {c d : Byte} {j : Nat} :
    holdsAt (b ++ [c]) j d ↔ holdsAt b j d ∨ j = b.length ∧ c = d := by
  rcases Nat.lt_trichotomy j b.length with hlt | rfl | hgt
  · rw [holdsAt_append_left [c] hlt]
    simp [hlt.ne]
  · simp [holdsAt]
  · have hout : ¬ holdsAt b j d := fun h => by have := holdsAt_lt h; omega
    have hout' : ¬ holdsAt (b ++ [c]) j d := fun h => by
      have := holdsAt_lt h
      simp only [List.length_append, List.length_singleton] at this
      omega
    simp only [hout, hout', hgt.ne', false_and, or_self]

theorem etxAfterStx_append_left {b : List Byte} (r : List Byte) {j : Nat} (hj : j < b.length) :
    etxAfterStx (b ++ r) j ↔ etxAfterStx b j := by
  refine and_congr (holdsAt_append_left r hj) (exists_congr fun i => and_congr_right fun hi => ?_)
  exact holdsAt_append_left r (hi.trans hj)

/-- A further byte is in the set E of R161 exactly when it is an ETX and an STX came before. -/
theorem etxAfterStx_snoc {b : List Byte} {c : Byte} {j : Nat} :
    etxAfterStx (b ++ [c]) j ↔
      etxAfterStx b j ∨ j = b.length ∧ c = Config.etx ∧ ∃ i, holdsAt b i Config.stx := by
  by_cases hj : j < b.length
  · rw [etxAfterStx_append_left [c] hj]
    simp [hj.ne]
  · have hold : ¬ etxAfterStx b j := fun h => hj (holdsAt_lt h.1)
    have hend : ¬ holdsAt b j Config.etx := fun h => hj (holdsAt_lt h)
    rw [or_iff_right hold, etxAfterStx, holdsAt_snoc, or_iff_right hend, and_assoc]
    refine and_congr_right fun hlen => and_congr_right fun _ => exists_congr fun i => ?_
    constructor
    · rintro ⟨hi, h⟩
      exact (holdsAt_append_left [c] (hlen ▸ hi)).mp h
    · intro h
      have hi := holdsAt_lt h
      exact ⟨hlen ▸ hi, (holdsAt_append_left [c] hi).mpr h⟩

/-! ### The chosen span -/

theorem chosenSpan_append {b : List Byte} {s e : Nat} (h : chosenSpan b s e) (r : List Byte) :
    chosenSpan (b ++ r) s e := by
  obtain ⟨hetx, hfirst, hlt, hstx, hlast⟩ := h
  have he := holdsAt_lt hetx.1
  refine ⟨(etxAfterStx_append_left r he).mpr hetx, fun j hj => ?_, hlt,
    (holdsAt_append_left r (hlt.trans he)).mpr hstx, fun i hi hsi => ?_⟩
  · rw [etxAfterStx_append_left r (hj.trans he)]; exact hfirst j hj
  · rw [holdsAt_append_left r (hi.trans he)]; exact hlast i hi hsi

theorem chosenSpan_unique {b : List Byte} {s e s' e' : Nat} (h : chosenSpan b s e) (h' : chosenSpan b s' e') :
    s = s' ∧ e = e' := by
  obtain ⟨hetx, hfirst, hlt, hstx, hlast⟩ := h
  obtain ⟨hetx', hfirst', hlt', hstx', hlast'⟩ := h'
  obtain rfl : e = e' :=
    le_antisymm (Nat.le_of_not_lt fun hl => hfirst _ hl hetx') (Nat.le_of_not_lt fun hl => hfirst' _ hl hetx)
  obtain rfl : s = s' :=
    le_antisymm (Nat.le_of_not_lt fun hl => hlast' _ hlt hl hstx) (Nat.le_of_not_lt fun hl => hlast _ hlt' hl hstx')
  exact ⟨rfl, rfl⟩

/-! ### The scan by induction -/

/-- `last` is the last STX position of `b`, if `b` has one. -/
def LastStx (b : List Byte) : Option Nat → Prop
  | none => ∀ i, ¬ holdsAt b i Config.stx
  | some s => holdsAt b s Config.stx ∧ ∀ i, s < i → ¬ holdsAt b i Config.stx

theorem LastStx.snoc_stx {b : List Byte} : LastStx (b ++ [Config.stx]) (some b.length) := by
  refine ⟨holdsAt_snoc.mpr (.inr ⟨rfl, rfl⟩), fun i hi h => ?_⟩
  have := holdsAt_lt h
  simp only [List.length_append, List.length_singleton] at this
  omega

theorem LastStx.snoc_of_ne {b : List Byte} {last : Option Nat} (h : LastStx b last) {c : Byte} (hc : c ≠ Config.stx) :
    LastStx (b ++ [c]) last := by
  have hsame : ∀ i, holdsAt (b ++ [c]) i Config.stx ↔ holdsAt b i Config.stx := fun i => by simp [holdsAt_snoc, hc]
  cases last <;> simpa only [LastStx, hsame] using h

/-- What the scan knows of the part it has read: its last STX, and that no ETX in it follows an STX. -/
structure ScanState (b : List Byte) (last : Option Nat) : Prop where
  lastStx : LastStx b last
  noSpan : ¬ ∃ j, etxAfterStx b j

theorem ScanState.nil : ScanState [] none :=
  ⟨fun i h => absurd (holdsAt_lt h) (Nat.not_lt_zero i),
    fun ⟨j, h⟩ => absurd (holdsAt_lt h.1) (Nat.not_lt_zero j)⟩

theorem ScanState.snoc_stx {b : List Byte} {last : Option Nat} (h : ScanState b last) :
    ScanState (b ++ [Config.stx]) (some b.length) := by
  refine ⟨LastStx.snoc_stx, fun ⟨j, hj⟩ => ?_⟩
  rcases etxAfterStx_snoc.mp hj with hold | ⟨-, hc, -⟩
  · exact h.noSpan ⟨j, hold⟩
  · exact absurd hc (by decide)

theorem ScanState.snoc_plain {b : List Byte} {last : Option Nat} (h : ScanState b last) {c : Byte}
    (hc : plainByte c = true) : ScanState (b ++ [c]) last := by
  obtain ⟨hstx, hetx⟩ := plainByte_iff.mp hc
  refine ⟨h.lastStx.snoc_of_ne hstx, fun ⟨j, hj⟩ => ?_⟩
  rcases etxAfterStx_snoc.mp hj with hold | ⟨-, hc, -⟩
  · exact h.noSpan ⟨j, hold⟩
  · exact hetx hc

theorem ScanState.snoc_etx {b : List Byte} (h : ScanState b none) : ScanState (b ++ [Config.etx]) none := by
  refine ⟨h.lastStx.snoc_of_ne (by decide), fun ⟨j, hj⟩ => ?_⟩
  rcases etxAfterStx_snoc.mp hj with hold | ⟨-, -, i, hi⟩
  · exact h.noSpan ⟨j, hold⟩
  · exact h.lastStx i hi

/-- An ETX after a part that holds an STX closes the chosen span. -/
theorem ScanState.chosenSpan_etx {b : List Byte} {s : Nat} (h : ScanState b (some s)) :
    chosenSpan (b ++ [Config.etx]) s b.length := by
  obtain ⟨⟨hstx, hlast⟩, hnoSpan⟩ := h
  refine ⟨etxAfterStx_snoc.mpr (.inr ⟨rfl, rfl, s, hstx⟩), fun j hj => ?_, holdsAt_lt hstx,
    holdsAt_snoc.mpr (.inl hstx), fun i hi hsi => ?_⟩
  · rw [etxAfterStx_append_left _ hj]; exact fun h => hnoSpan ⟨j, h⟩
  · rw [holdsAt_append_left _ hi]; exact hlast i hsi

/-- What R161 says of a result of the scan of `b`. -/
def ScanResult (b : List Byte) : Option (Nat × Nat) → Prop
  | none => ¬ ∃ j, etxAfterStx b j
  | some (s, e) => chosenSpan b s e

theorem scanFrom_result (b : List Byte) {pre : List Byte} {last : Option Nat} (h : ScanState pre last) :
    ScanResult (pre ++ b) (scanFrom b pre.length last) := by
  induction b generalizing pre last with
  | nil => rw [List.append_nil]; exact h.noSpan
  | cons c b ih =>
    have hnext {last'} (hs : ScanState (pre ++ [c]) last') :
        ScanResult (pre ++ c :: b) (scanFrom b (pre.length + 1) last') := by
      simpa only [List.append_assoc, List.singleton_append, List.length_append, List.length_singleton] using ih hs
    rcases byte_cases c with rfl | rfl | hc
    · exact hnext h.snoc_stx
    · cases last with
      | none => exact hnext h.snoc_etx
      | some s =>
        rw [scanFrom_etx_some, ← List.singleton_append, ← List.append_assoc]
        exact chosenSpan_append h.chosenSpan_etx b
    · rw [scanFrom_plain hc]
      exact hnext (h.snoc_plain hc)

theorem scan_result (b : List Byte) : ScanResult b (scan b) := scanFrom_result b ScanState.nil

theorem scan_eq_none_iff {b : List Byte} : scan b = none ↔ ¬ ∃ j, etxAfterStx b j := by
  have hres := scan_result b
  cases hscan : scan b with
  | none => rw [hscan] at hres; exact iff_of_true rfl hres
  | some se =>
    rw [hscan] at hres
    exact iff_of_false (Option.some_ne_none _) (not_not_intro ⟨_, hres.1⟩)

theorem scan_eq_some_iff {b : List Byte} {s e : Nat} : scan b = some (s, e) ↔ chosenSpan b s e := by
  have hres := scan_result b
  refine ⟨fun h => by rwa [h] at hres, fun hspan => ?_⟩
  cases hscan : scan b with
  | none => exact absurd ⟨e, hspan.1⟩ (scan_eq_none_iff.mp hscan)
  | some se =>
    rw [hscan] at hres
    obtain ⟨hs, he⟩ := chosenSpan_unique hres hspan
    rw [← hs, ← he]

/-- Settles O24: the scan by induction on the list (`scanFrom_result`), and the chosen span is the only one. -/
theorem scanChoosesTheSpan : Obligations.ScanChoosesTheSpan := by
  unfold Obligations.ScanChoosesTheSpan
  exact fun b => ⟨fun _ _ => scan_eq_some_iff, scan_eq_none_iff⟩

/-- Settles O30: a further STX inside would be a later STX before the ETX, and an ETX inside an earlier ETX after the
STX (R161). -/
theorem spanInteriorIsPlain : Obligations.SpanInteriorIsPlain := by
  unfold Obligations.SpanInteriorIsPlain
  intro b s e hscan
  obtain ⟨⟨hetx, -⟩, hfirst, hlt, hstx, hlast⟩ := scan_eq_some_iff.mp hscan
  refine ⟨hstx, hetx, hlt, fun i c hsi hie hc => ⟨?_, ?_⟩⟩
  · rintro rfl
    exact hlast i hie hsi hc
  · rintro rfl
    exact hfirst i hie ⟨hc, s, hsi, hstx⟩

end Sys2Proof.Machine

/-! The framer's operations (42_framer.md R162 to R173): the verdict by the chosen span, what `FBPUSH`, `VALIDATE` and
`FBCLEAR` answer and leave unchanged, and the checksum of a frame with one byte changed. -/

namespace Sys2Proof.Machine

/-! ### The verdict -/

theorem byteAt_eq {b : List Byte} {i : Nat} {c : Byte} (h : b[i]? = some c) : byteAt b i = c := by
  rw [byteAt, List.getD_eq_getElem?_getD, h, Option.getD_some]

theorem validateBytes_of_scan {b : List Byte} {s e : Nat} (h : scan b = some (s, e)) :
    validateBytes b =
      if computedChecksum b s e = byteAt b (e - 1) then
        .ok s e (byteAt b (s + 1)) (((byteAt b (s + 1)).toNat : Int) - 10) (slice b s e)
      else .csum s e (computedChecksum b s e) (byteAt b (e - 1)) := by
  simp only [validateBytes, h, Config.addrOffset]; rfl

theorem validateBytes_eq_needMore_iff {b : List Byte} : validateBytes b = .needMore ↔ scan b = none := by
  cases h : scan b with
  | none => simp [validateBytes, h]
  | some se =>
    rw [validateBytes_of_scan h]
    split <;> simp

/-- The bytes of R162, from the position after the STX to the one before the received checksum. -/
theorem computedChecksum_eq (b : List Byte) (s e : Nat) :
    computedChecksum b s e = ((b.drop (s + 1)).take (e - 2 - s)).foldl (· ^^^ ·) 0 ||| 0x80 := by
  rw [← Nat.add_sub_add_right (e - 2) 1 s]; rfl

/-- Settles O25: the scan finds no span or the chosen one (`scan_eq_some_iff`), and every position the verdict reads is
inside the list. -/
theorem validatorVerdict : Obligations.ValidatorVerdict := by
  unfold Obligations.ValidatorVerdict
  intro b
  refine ⟨validateBytes_eq_needMore_iff.trans scan_eq_none_iff, fun s e hspan => ?_⟩
  have hscan := scan_eq_some_iff.mpr hspan
  obtain ⟨⟨hetx, -⟩, -, hlt, -, -⟩ := hspan
  have he := holdsAt_lt hetx
  have ha : b[s + 1]? = some b[s + 1] := List.getElem?_eq_getElem (by omega)
  have hkr : b[e - 1]? = some b[e - 1] := List.getElem?_eq_getElem (by omega)
  have hlen : e + 1 - s = e - s + 1 := Nat.sub_add_comm hlt.le
  refine ⟨_, _, ha, hkr, fun hmatch => ?_, fun hmismatch => ?_⟩
  · rw [validateBytes_of_scan hscan, byteAt_eq ha, byteAt_eq hkr, computedChecksum_eq, if_pos hmatch, slice, hlen]
  · rw [validateBytes_of_scan hscan, byteAt_eq hkr, computedChecksum_eq, if_neg hmismatch]

/-! ### The operations on the frame buffer -/

theorem exec_fbpush_of_fits {xs : List Byte} {s : State} (h : xs.length ≤ s.params.fbCap - s.fbuf.length) :
    exec (.fbpush xs) s = .next { s with
      fbuf := s.fbuf ++ xs
      cp := { s.cp with rsp := [0x00, indexByte xs.length] } } := by
  simp [exec, execFbpush, Nat.min_eq_left h, statusCode]

theorem exec_fbpush_of_not_fits {xs : List Byte} {s : State} (h : s.params.fbCap - s.fbuf.length < xs.length) :
    exec (.fbpush xs) s = .next { s with
      fbuf := s.fbuf ++ xs.take (s.params.fbCap - s.fbuf.length)
      cp := { s.cp with rsp := [0x05, indexByte (s.params.fbCap - s.fbuf.length)] } } := by
  simp [exec, execFbpush, Nat.min_eq_right h.le, h.ne, statusCode]

/-- Settles O26: the bytes fit or they do not (R165). -/
theorem fbpushAppendsWhatFits : Obligations.FbpushAppendsWhatFits := by
  unfold Obligations.FbpushAppendsWhatFits
  exact fun xs s => ⟨rfl, rfl, exec_fbpush_of_fits, exec_fbpush_of_not_fits⟩

theorem exec_validate_of_needMore {s : State} (h : validateBytes s.fbuf = .needMore) :
    exec .validate s = .next { s with cp := { s.cp with rsp := [0x01] } } := by
  simp [exec, execValidate, h, statusCode]

theorem exec_validate_of_csum {s : State} {st e : Nat} {kc kr : Byte} (h : validateBytes s.fbuf = .csum st e kc kr) :
    exec .validate s = .next { s with
      fbuf := s.fbuf.drop (e + 1)
      csumErrCnt := satIncr s.csumErrCnt
      cp := { s.cp with rsp := [0x02, kc, kr] } } := by
  simp [exec, execValidate, h, statusCode, countCsumError]

theorem exec_validate_of_ok {s : State} {st e : Nat} {a : Byte} {node : Int} {span : List Byte}
    (h : validateBytes s.fbuf = .ok st e a node span) :
    exec .validate s = .next { s with
      fbuf := s.fbuf.drop (e + 1)
      cp := { s.cp with rsp := 0x00 :: a :: (be16Int node ++ lenList span) } } := by
  simp [exec, execValidate, h, statusCode]

/-- The counter's step is the addition that stops at 0xFFFF (10_state.md R36). -/
theorem satIncr_eq (c : BitVec 16) : satIncr c = BitVec.ofNat 16 (min 0xFFFF (c.toNat + 1)) := by
  unfold satIncr
  split
  · next h => subst h; rfl
  · next h =>
    have := c.isLt
    have hne : c.toNat ≠ 0xFFFF := fun h' => h (BitVec.eq_of_toNat_eq h')
    apply BitVec.eq_of_toNat_eq
    rw [Nat.min_eq_right (by omega), BitVec.toNat_add, BitVec.toNat_ofNat]
    rfl

/-- The node address of an address byte as its 16-bit field, below 10 too (R96, R167). -/
theorem be16Int_node (a : Byte) : be16Int ((a.toNat : Int) - 10) = be16 (a.setWidth 16 - 10) := by
  rw [be16Int]
  congr 1
  apply BitVec.eq_of_toInt_eq
  rw [BitVec.toInt_ofInt, BitVec.toInt_sub, BitVec.toInt_setWidth]
  simp

/-- Settles O27: `VALIDATE` acts by the verdict, which the chosen span gives (O25). -/
theorem validateConsumesOneFrame : Obligations.ValidateConsumesOneFrame := by
  unfold Obligations.ValidateConsumesOneFrame
  intro s
  obtain ⟨hnone, hsome⟩ := validatorVerdict s.fbuf
  refine ⟨rfl, rfl, fun h => exec_validate_of_needMore (hnone.mpr h), fun st e hspan => ?_⟩
  obtain ⟨a, kr, ha, hkr, hmatch, hmismatch⟩ := hsome st e hspan
  refine ⟨a, kr, ha, hkr, fun h => ?_, fun h => ?_⟩
  · rw [exec_validate_of_csum (hmismatch h), satIncr_eq]
  · rw [exec_validate_of_ok (hmatch h), be16Int_node]
    rfl

/-- Settles O28: no case to split, the operation is one update (R169). -/
theorem fbclearEmpties : Obligations.FbclearEmpties := by
  unfold Obligations.FbclearEmpties
  exact fun s => ⟨rfl, rfl, rfl⟩

/-! ### What a run leaves in the frame buffer -/

/-- The frame buffer and its capacity are the same in both states. -/
structure SameBuffer (s t : State) : Prop where
  params : t.params = s.params
  fbuf : t.fbuf = s.fbuf

theorem execRbwr_sameBuffer {b : Byte} {s t : State} (h : execRbwr b s = .next t) : SameBuffer s t := by
  unfold execRbwr at h
  split at h
  · cases h; exact ⟨rfl, rfl⟩
  · split at h
    · cases h
    · next s' hw =>
      obtain ⟨-, rfl⟩ := memWrite_ok.mp hw
      cases h
      exact ⟨rfl, rfl⟩

theorem execRbdrain_sameBuffer {s t : State} (h : execRbdrain s = .next t) : SameBuffer s t := by
  unfold execRbdrain at h
  split at h
  · cases h
  · cases h; exact ⟨rfl, rfl⟩

theorem execBdata_sameBuffer {xs : List Byte} {s t : State} (h : execBdata xs s = .next t) : SameBuffer s t := by
  unfold execBdata at h
  split at h
  · cases h; exact ⟨rfl, rfl⟩
  · cases h; exact ⟨rfl, rfl⟩

/-- Only `FBPUSH`, `VALIDATE` and `FBCLEAR` change the frame buffer. -/
theorem exec_buffer_cases {i : Instr} {s t : State} (h : exec i s = .next t) :
    (∃ xs, i = .fbpush xs) ∨ i = .validate ∨ i = .fbclear ∨ SameBuffer s t := by
  cases i with
  | fbpush xs => exact .inl ⟨xs, rfl⟩
  | validate => exact .inr (.inl rfl)
  | fbclear => exact .inr (.inr (.inl rfl))
  | rbwr => exact .inr (.inr (.inr (execRbwr_sameBuffer h)))
  | rbdrain => exact .inr (.inr (.inr (execRbdrain_sameBuffer h)))
  | bdata => exact .inr (.inr (.inr (execBdata_sameBuffer h)))
  | rbstat | enc | dec | bval | xcv | stat =>
    cases h
    exact .inr (.inr (.inr ⟨rfl, rfl⟩))

/-- A frame buffer that is full and holds no frame (R168). -/
structure BufferStuck (s : State) : Prop where
  full : s.fbuf.length = s.params.fbCap
  noFrame : validateBytes s.fbuf = .needMore

theorem SameBuffer.stuck {s t : State} (h : SameBuffer s t) (hs : BufferStuck s) : BufferStuck t :=
  ⟨by rw [h.fbuf, h.params, hs.full], by rw [h.fbuf, hs.noFrame]⟩

/-- A push into a full buffer takes no byte (R165). -/
theorem exec_fbpush_sameBuffer {xs : List Byte} {s t : State} (hfull : s.fbuf.length = s.params.fbCap)
    (h : exec (.fbpush xs) s = .next t) : SameBuffer s t := by
  have hroom : s.params.fbCap - s.fbuf.length = 0 := by rw [hfull, Nat.sub_self]
  by_cases hxs : xs.length ≤ s.params.fbCap - s.fbuf.length
  · have hnil : xs = [] := List.length_eq_zero_iff.mp (by omega)
    rw [exec_fbpush_of_fits hxs] at h
    cases h
    exact ⟨rfl, by simp [hnil]⟩
  · rw [exec_fbpush_of_not_fits (Nat.lt_of_not_le hxs)] at h
    cases h
    exact ⟨rfl, by simp [hroom]⟩

theorem BufferStuck.exec_sameBuffer {i : Instr} {s t : State} (hs : BufferStuck s) (hi : i ≠ .fbclear)
    (h : exec i s = .next t) : SameBuffer s t := by
  rcases exec_buffer_cases h with ⟨xs, rfl⟩ | rfl | rfl | hsame
  · exact exec_fbpush_sameBuffer hs.full h
  · rw [exec_validate_of_needMore hs.noFrame] at h
    cases h
    exact ⟨rfl, rfl⟩
  · exact absurd rfl hi
  · exact hsame

/-- What a run of at least one operation is made of. -/
theorem runOps_cons_eq_some {i : Instr} {is : List Instr} {s u : State} {acc dr : List Byte}
    (h : runOps (i :: is) s = some (u, acc, dr)) :
    ∃ t acc' dr', exec i s = .next t ∧ runOps is t = some (u, acc', dr') := by
  simp only [runOps] at h
  split at h
  · next t ht =>
    split at h
    · next v a d hv => cases h; exact ⟨t, a, d, ht, hv⟩
    · cases h
  · cases h

theorem BufferStuck.runOps_sameBuffer {ops : List Instr} {s u : State} {acc dr : List Byte} (hs : BufferStuck s)
    (hops : ∀ i ∈ ops, i ≠ .fbclear) (h : runOps ops s = some (u, acc, dr)) : SameBuffer s u := by
  induction ops generalizing s acc dr with
  | nil => cases h; exact ⟨rfl, rfl⟩
  | cons i is ih =>
    obtain ⟨hi, his⟩ := List.forall_mem_cons.mp hops
    obtain ⟨t, acc', dr', ht, hu⟩ := runOps_cons_eq_some h
    have hst := hs.exec_sameBuffer hi ht
    have htu := ih (hst.stuck hs) his hu
    exact ⟨htu.params.trans hst.params, htu.fbuf.trans hst.fbuf⟩

/-- Settles O29: no operation but `FBCLEAR` moves a stuck buffer (`BufferStuck.exec_sameBuffer`), by induction on the
run. -/
theorem fullBufferWithoutFrameIsStuck : Obligations.FullBufferWithoutFrameIsStuck := by
  unfold Obligations.FullBufferWithoutFrameIsStuck
  intro ops s u acc dr hfull hnone hops hrun
  have hs : BufferStuck s := ⟨hfull, hnone⟩
  have hsame := hs.runOps_sameBuffer hops hrun
  exact ⟨hsame.fbuf, exec_validate_of_needMore (hsame.stuck hs).noFrame⟩

/-! ### A frame in two pushes -/

theorem runOps_pair {i j : Instr} {s t u : State} (hi : exec i s = .next t) (hj : exec j t = .next u) :
    runOps [i, j] s = some (u, acceptedBy i t ++ (acceptedBy j u ++ []), drainedBy i t ++ (drainedBy j u ++ [])) :=
  runOps_cons hi (runOps_cons hj rfl)

/-- Settles O31: both pushes fit, and a `VALIDATE` without a frame leaves the first part in the buffer (R172). -/
theorem splitFrameCompletesLater : Obligations.SplitFrameCompletesLater := by
  unfold Obligations.SplitFrameCompletesLater
  intro p q s st e a node span hempty hcap hp hpq
  rw [List.length_append] at hcap
  have hpush := exec_fbpush_of_fits (xs := p) (s := s) (by rw [hempty, List.length_nil]; omega)
  rw [hempty, List.nil_append] at hpush
  refine ⟨_, runOps_pair hpush (exec_validate_of_needMore hp), rfl, rfl, ?_⟩
  exact ⟨_, runOps_pair (exec_fbpush_of_fits (Nat.le_sub_of_add_le' hcap)) (exec_validate_of_ok hpq), rfl⟩

/-! ### Frames with a plain body -/

/-- A frame with the bytes `body` between its STX and its checksum byte `k` (30_encoding.md R94). -/
def framed (body : List Byte) (k : Byte) : List Byte := Config.stx :: (body ++ [k, Config.etx])

theorem commandFrame_eq_framed (a c : Byte) (p : List Byte) :
    commandFrame a c p = framed (a :: c :: p) (checksum (a :: c :: p)) := rfl

@[simp] theorem length_framed (body : List Byte) (k : Byte) : (framed body k).length = body.length + 3 := by
  simp [framed]

theorem getElem?_framed {body : List Byte} {i : Nat} (hi : i < body.length) (k : Byte) :
    (framed body k)[i + 1]? = body[i]? := by
  rw [framed, List.getElem?_cons_succ, List.getElem?_append_left hi]

theorem set_framed {body : List Byte} {i : Nat} (hi : i < body.length) (k y : Byte) :
    (framed body k).set (i + 1) y = framed (body.set i y) k := by
  rw [framed, List.set_cons_succ, List.set_append_left _ _ hi, framed]

theorem scanFrom_plain_append {xs : List Byte} (hxs : ∀ x ∈ xs, plainByte x = true) (b : List Byte) (i : Nat)
    (last : Option Nat) : scanFrom (xs ++ b) i last = scanFrom b (i + xs.length) last := by
  induction xs generalizing i with
  | nil => rfl
  | cons x xs ih =>
    obtain ⟨hx, hrest⟩ := List.forall_mem_cons.mp hxs
    rw [List.cons_append, scanFrom_plain hx, ih hrest, List.length_cons, Nat.add_assoc, Nat.add_comm 1]

theorem scan_framed {body : List Byte} {k : Byte} (hbody : ∀ x ∈ body, plainByte x = true)
    (hk : plainByte k = true) : scan (framed body k) = some (0, body.length + 2) := by
  rw [scan, framed, scanFrom_stx, scanFrom_plain_append hbody, scanFrom_plain hk, scanFrom_etx_some]
  congr 2
  omega

theorem computedChecksum_framed (body : List Byte) (k : Byte) :
    computedChecksum (framed body k) 0 (body.length + 2) = checksum body := by
  simp [computedChecksum, slice, framed]

theorem byteAt_framed_checksum (body : List Byte) (k : Byte) : byteAt (framed body k) (body.length + 1) = k :=
  byteAt_eq (by simp [framed])

theorem slice_framed (body : List Byte) (k : Byte) : slice (framed body k) 0 (body.length + 2) = framed body k := by
  simp [slice, List.take_of_length_le]

/-- The verdict on a whole frame is by its checksum byte alone (R162, R163). -/
theorem validateBytes_framed {body : List Byte} {k : Byte} (hbody : ∀ x ∈ body, plainByte x = true)
    (hk : plainByte k = true) :
    validateBytes (framed body k) =
      if checksum body = k then
        .ok 0 (body.length + 2) (byteAt (framed body k) 1) (((byteAt (framed body k) 1).toNat : Int) - 10)
          (framed body k)
      else .csum 0 (body.length + 2) (checksum body) k := by
  rw [validateBytes_of_scan (scan_framed hbody hk), computedChecksum_framed, slice_framed,
    show body.length + 2 - 1 = body.length + 1 from rfl, byteAt_framed_checksum]

theorem validateBytes_framed_csum_iff {body : List Byte} {k : Byte} (hbody : ∀ x ∈ body, plainByte x = true)
    (hk : plainByte k = true) :
    (∃ s e kc kr, validateBytes (framed body k) = .csum s e kc kr) ↔ checksum body ≠ k := by
  rw [validateBytes_framed hbody hk]
  split
  · next h => simp [h]
  · next h => simp [h]

/-! ### The checksum of a changed body -/

/-- A checksum has bit 7 set, so it is neither STX nor ETX (30_encoding.md R95, R97). -/
theorem plainByte_checksum (l : List Byte) : plainByte (checksum l) = true := by
  have h7 : (checksum l).getLsbD 7 = true := by simp [checksum, Config.csumForce]
  refine plainByte_iff.mpr ⟨fun h => ?_, fun h => ?_⟩
  · rw [h] at h7; exact absurd h7 (by decide)
  · rw [h] at h7; exact absurd h7 (by decide)

theorem xorBytes_cons (x : Byte) (l : List Byte) : xorBytes (x :: l) = x ^^^ xorBytes l := by
  rw [xorBytes, List.foldl_cons, BitVec.xor_comm, List.foldl_assoc]
  rfl

/-- Changing one byte changes the XOR by what the byte changes. -/
theorem xorBytes_set {l : List Byte} {i : Nat} {x : Byte} (hx : l[i]? = some x) (y : Byte) :
    xorBytes (l.set i y) = xorBytes l ^^^ (x ^^^ y) := by
  induction l generalizing i with
  | nil => cases hx
  | cons a l ih =>
    cases i with
    | zero =>
      obtain rfl : a = x := Option.some.inj hx
      rw [List.set_cons_zero, xorBytes_cons, xorBytes_cons, BitVec.xor_comm a, BitVec.xor_assoc, ← BitVec.xor_assoc a,
        BitVec.xor_self, BitVec.zero_xor, BitVec.xor_comm]
    | succ i => rw [List.set_cons_succ, xorBytes_cons, xorBytes_cons, ih hx, BitVec.xor_assoc]

/-- Forcing bit 7 hides that bit and no other (R95). -/
theorem or_csumForce_eq_iff (a b : Byte) :
    a ||| Config.csumForce = b ||| Config.csumForce ↔ (a ^^^ b) &&& 0x7F = 0 := by
  have hforce : (a ||| Config.csumForce) ^^^ (b ||| Config.csumForce) = (a ^^^ b) &&& ~~~Config.csumForce := by
    ext i
    simp only [BitVec.getElem_xor, BitVec.getElem_or, BitVec.getElem_and, BitVec.getElem_not]
    cases Config.csumForce[i] <;> simp
  rw [← BitVec.xor_eq_zero_iff, hforce]
  rfl

theorem checksum_set_eq_iff {l : List Byte} {i : Nat} {x : Byte} (hx : l[i]? = some x) (y : Byte) :
    checksum (l.set i y) = checksum l ↔ (x ^^^ y) &&& 0x7F = 0 := by
  rw [checksum, checksum, or_csumForce_eq_iff, xorBytes_set hx, BitVec.xor_comm, ← BitVec.xor_assoc, BitVec.xor_self,
    BitVec.zero_xor]

/-- Settles O33: the changed frame is a frame with a plain body and the old checksum byte, and the new body's checksum
differs from it exactly when a bit other than bit 7 changed (R173). -/
theorem singleByteCorruption : Obligations.SingleByteCorruption := by
  unfold Obligations.SingleByteCorruption
  intro a c p pos x y hplain hpos hend hx _ hy
  rw [commandFrame_eq_framed] at hend hx ⊢
  generalize a :: c :: p = body at *
  obtain ⟨i, rfl⟩ := Nat.exists_eq_add_of_le' hpos
  have hi : i < body.length := by rw [length_framed] at hend; omega
  rw [getElem?_framed hi] at hx
  rw [set_framed hi]
  have hbody : ∀ z ∈ body.set i y, plainByte z = true := fun z hz =>
    (List.mem_or_eq_of_mem_set hz).elim (hplain z) (fun h => h ▸ hy)
  have hk := plainByte_checksum body
  refine ⟨(validateBytes_framed_csum_iff hbody hk).trans (checksum_set_eq_iff hx y).not, fun hbit7 => ?_⟩
  have hsame : checksum (body.set i y) = checksum body := (checksum_set_eq_iff hx y).mpr (by rw [hbit7]; rfl)
  exact ⟨_, _, _, _, _, (validateBytes_framed hbody hk).trans (if_pos hsame)⟩

end Sys2Proof.Machine

/-! The reply builder (43_reply_builder.md). A value reply is a frame (30_encoding.md R94) with the encoder's digits
between its STX and its own checksum byte; so the validator's verdict on it is the framer's rule for frames with a plain
body, and the decoder reads its value back by the codec's round trip. -/

namespace Sys2Proof.Machine

/-! ### Value replies -/

theorem valueReply_eq_framed (v : Word32) : valueReply v = framed (encDigits v) (checksum (encDigits v)) := rfl

theorem exec_bval (v : Word32) (s : State) :
    exec (.bval v) s = .next { s with cp := { s.cp with rsp := 0x00 :: 8 :: valueReply v } } := rfl

/-- The checksum of five digits as R191 writes it, without the initial zero of the fold. -/
theorem checksum_digits (e0 e1 e2 e3 e4 : Byte) :
    checksum [e0, e1, e2, e3, e4] = (e0 ^^^ e1 ^^^ e2 ^^^ e3 ^^^ e4) ||| 0x80 := by
  simp [checksum, xorBytes, Config.csumForce]

theorem plainByte_of_mem_encDigits {v : Word32} {d : Byte} (hd : d ∈ encDigits v) : plainByte d = true := by
  obtain ⟨_, _, _, _, _, hdigits, -, -, hrange⟩ := encDigitsInRange v
  obtain ⟨-, -, hstx, hetx⟩ := hrange d (hdigits ▸ hd)
  exact plainByte_iff.mpr ⟨hstx, hetx⟩

/-- A frame with a plain body and the body's own checksum byte validates whole (42_framer.md R161 to R163). -/
theorem validateBytes_framed_checksum {body : List Byte} (hbody : ∀ x ∈ body, plainByte x = true) :
    validateBytes (framed body (checksum body)) =
      .ok 0 (body.length + 2) (byteAt (framed body (checksum body)) 1)
        (((byteAt (framed body (checksum body)) 1).toNat : Int) - 10) (framed body (checksum body)) :=
  (validateBytes_framed hbody (plainByte_checksum body)).trans (if_pos rfl)

/-- The first digit stands where a command frame has its address byte (R192). -/
theorem validateBytes_valueReply (v : Word32) :
    validateBytes (valueReply v) = .ok 0 7 (encDigit v 28) (((encDigit v 28).toNat : Int) - 10) (valueReply v) := by
  rw [valueReply_eq_framed]
  exact validateBytes_framed_checksum fun _ => plainByte_of_mem_encDigits

/-- Settles O35: a value reply is a frame with a plain body (`validateBytes_valueReply`), and its node is the first
digit minus 10, whose range the sign of the value decides (O19). -/
theorem valueReplyValidates : Obligations.ValueReplyValidates := by
  unfold Obligations.ValueReplyValidates
  intro v s t hexec
  rw [exec_bval] at hexec
  cases hexec
  obtain ⟨d0, _, _, _, _, hdigits, hpos, hneg, -⟩ := encDigitsInRange v
  obtain ⟨rfl, -⟩ := List.cons.inj hdigits
  refine ⟨_, _, rfl, rfl, validateBytes_valueReply v, fun h => ?_, fun h => ?_⟩
  · have := hpos h
    omega
  · have := hneg h
    omega

/-- Settles O36: bytes 1 to 5 of the reply are the encoder's digits, which `DEC` inverts (`decDigits_encDigits`). -/
theorem valueReplyCarriesItsValue : Obligations.ValueReplyCarriesItsValue := by
  unfold Obligations.ValueReplyCarriesItsValue
  intro v s t x0 x1 x2 e0 e1 e2 e3 e4 x3 x4 hexec hrsp
  rw [exec_bval] at hexec
  cases hexec
  have hdigits : encDigits v = [e0, e1, e2, e3, e4] := congrArg (fun rsp => (rsp.drop 3).take 5) hrsp
  refine ⟨_, exec_dec .., ?_⟩
  rw [← hdigits, decDigits_encDigits]
  rfl

/-- Settles O34: the response is the status, the length 8 and the reply of R190, with its digits named (`exec_bval`). -/
theorem bvalAnswersValueReply : Obligations.BvalAnswersValueReply := by
  unfold Obligations.BvalAnswersValueReply
  intro v s e0 e1 e2 e3 e4 hdigits
  refine ⟨rfl, rfl, ?_⟩
  rw [exec_bval, valueReply, hdigits, checksum_digits]
  rfl

/-! ### Data replies -/

theorem exec_bdata_of_tooLong {xs : List Byte} {s : State} (h : s.params.maxFrame < xs.length + 1) :
    exec (.bdata xs) s = .next { s with cp := { s.cp with rsp := [0x06] } } := by
  simp [exec, execBdata, h, statusCode]

theorem exec_bdata_of_fits {xs : List Byte} {s : State} (h : xs.length + 1 ≤ s.params.maxFrame) :
    exec (.bdata xs) s = .next { s with
      cp := { s.cp with rsp := 0x00 :: BitVec.ofNat 8 (xs.length + 1) :: (xs ++ [s.params.dataTerm]) } } := by
  simp [exec, execBdata, Nat.not_lt.mpr h, statusCode, lenList, lenByte]

/-- Settles O37: the data with its terminator is longer than MAX_FRAME or it is not (R194). -/
theorem bdataAppendsTerminator : Obligations.BdataAppendsTerminator := by
  unfold Obligations.BdataAppendsTerminator
  exact fun xs s => ⟨rfl, rfl, exec_bdata_of_tooLong, exec_bdata_of_fits⟩

end Sys2Proof.Machine

/-! `timeout_cnt` (44_bus_transport.md R231). `waitSeen` names the four wait states, and a cycle in one of them is a
`waitSample`; so the counter's rule is the rule of a sample in the waits and "unchanged" elsewhere. -/

namespace Sys2Proof.Machine

/-! ### The shared operations -/

/-- Only a timeout among the failures of an attempt is counted (R223, R231). -/
theorem failAttempt_timeoutCnt (c : Status) (s : State) :
    (failAttempt c s).timeoutCnt = if c = .transportTimeout then satAdd s.timeoutCnt 1 else s.timeoutCnt := by
  have hlog : (failAttempt c s).timeoutCnt = (logFailure c s).timeoutCnt := by
    by_cases h : s.bus.att.toNat < 3
    · rw [failAttempt_retry h]
    · rw [failAttempt_last h]
  rw [hlog, logFailure]
  split
  · exact satIncr_eq s.timeoutCnt
  · rfl

theorem waitSample_timeoutCnt (seen : Bool) (onSeen : Bus → Bus) (s : State) :
    (waitSample seen onSeen s).timeoutCnt =
      if seen = false ∧ s.params.fClk ≤ s.bus.tcnt + 1 then satAdd s.timeoutCnt 1 else s.timeoutCnt := by
  have hT := timeoutCycles_eq s.params
  rcases waitSample_cases seen onSeen s with ⟨rfl, h⟩ | ⟨rfl, hle, h⟩ | ⟨rfl, hlt, h⟩ <;> rw [h]
  · simp
  · rw [failAttempt_timeoutCnt, if_pos rfl, if_pos ⟨rfl, hT ▸ hle⟩]
  · rw [if_neg (by omega)]

theorem holdCycles_timeoutCnt (n : Nat) (leave : Bus → Bus) (s : State) :
    (holdCycles n leave s).timeoutCnt = s.timeoutCnt := by
  rcases holdCycles_cases n leave s with ⟨-, h⟩ | ⟨-, h⟩ <;> rw [h]

/-- No verdict on a reply is a timeout (R224, R231). -/
theorem checkReply_timeoutCnt (s : State) : (checkReply s).timeoutCnt = s.timeoutCnt := by
  unfold checkReply
  split
  · rfl
  · exact failAttempt_timeoutCnt .needMoreData s
  · exact failAttempt_timeoutCnt .checksumMismatch s

/-! ### One cycle -/

/-- A cycle in a wait state is one sample of its wait (R214, R215). -/
theorem busCycle_of_wait {s : State} {rdy seen : Bool} (h : waitSeen s.bus.fsm rdy = some seen) (d : Byte) :
    ∃ onSeen, busCycle rdy d s = waitSample seen onSeen s := by
  cases hfsm : s.bus.fsm with
  | sWack | sWrel | rWstb | rWrel =>
    rw [hfsm] at h
    cases h
    exact ⟨_, by rw [busCycle, hfsm]⟩
  | _ => rw [hfsm] at h; cases h

/-- A cycle outside the waits counts no timeout: an attempt that fails there fails for another cause (R231). -/
theorem busCycle_timeoutCnt_of_not_wait {s : State} {rdy : Bool} (h : waitSeen s.bus.fsm rdy = none) (d : Byte) :
    (busCycle rdy d s).timeoutCnt = s.timeoutCnt := by
  cases hfsm : s.bus.fsm with
  | sWack | sWrel | rWstb | rWrel => rw [hfsm] at h; cases h
  | chkrdy =>
    rw [busCycle, hfsm]
    cases rdy with
    | true => rfl
    | false => exact failAttempt_timeoutCnt .peerNotReady s
  | sDrive | rAck | gap => rw [busCycle, hfsm]; exact holdCycles_timeoutCnt ..
  | eval => rw [busCycle, hfsm]; exact checkReply_timeoutCnt s
  | idle | sStrobe | sTurn => rw [busCycle, hfsm]

/-- Settles O45: the state is a wait, whose samples `waitSample_timeoutCnt` speaks of, or it is none. -/
theorem timeoutsAreCountedOnce : Obligations.TimeoutsAreCountedOnce := by
  unfold Obligations.TimeoutsAreCountedOnce
  intro s rdy d
  cases hwait : waitSeen s.bus.fsm rdy with
  | none =>
    rw [busCycle_timeoutCnt_of_not_wait hwait, waitTimesOut, hwait]
    rfl
  | some seen =>
    obtain ⟨onSeen, hcycle⟩ := busCycle_of_wait hwait d
    rw [hcycle, waitSample_timeoutCnt]
    simp [waitTimesOut, hwait]

end Sys2Proof.Machine

/-! A peer that never acknowledges (44_bus_transport.md R234). A run of cycles through a counted state is one induction
(`busRun_counted`), used for the waits, `S_DRIVE` and `GAP`; an attempt is the chain of its states'
runs, and the `XCV` the chain of its three attempts. -/

namespace Sys2Proof.Machine

/-! ### Runs through a counted state -/

/-- The state with `tcnt` at `k`. -/
def atCount (k : Nat) (s : State) : State := { s with bus := { s.bus with tcnt := k } }

/-- A state that counts its cycles up to `n` and leaves by `done` at the `n`-th: what a run of just the cycles it has
left does (10_state.md R33). -/
theorem busRun_counted {n : Nat} {done : State → State} {s : State} {zs : List (Bool × Byte)}
    (hcycle : ∀ z ∈ zs, ∀ k, busCycle z.1 z.2 (atCount k s) =
      if n ≤ k + 1 then done (atCount (k + 1) s) else atCount (k + 1) s)
    (hne : zs ≠ []) (hlen : s.bus.tcnt + zs.length = n) : busRun zs s = done (atCount n s) := by
  suffices h : ∀ k, k + zs.length = n → busRun zs (atCount k s) = done (atCount n s) from h _ hlen
  clear hlen
  induction zs with
  | nil => exact absurd rfl hne
  | cons z zs ih =>
    intro k hk
    rw [List.length_cons] at hk
    rw [busRun_cons, hcycle z (List.mem_cons_self ..)]
    cases zs with
    | nil =>
      obtain rfl : k + 1 = n := hk
      rw [if_pos le_rfl, busRun_nil]
    | cons y ys =>
      rw [if_neg (by rw [List.length_cons] at hk; omega)]
      exact ih (fun z hz => hcycle z (List.mem_cons_of_mem _ hz)) (List.cons_ne_nil _ _) _ (by omega)

/-- A wait whose condition holds at none of the T samples of a run fails the attempt (R214). -/
theorem busRun_wait_timeout {s : State} {zs : List (Bool × Byte)}
    (hwait : ∀ z ∈ zs, waitSeen s.bus.fsm z.1 = some false) (htcnt : s.bus.tcnt = 0) (hne : zs ≠ [])
    (hlen : zs.length = s.params.fClk) :
    busRun zs s = failAttempt .transportTimeout (atCount s.params.fClk s) := by
  refine busRun_counted (fun z hz k => ?_) hne (by omega)
  obtain ⟨onSeen, hcycle⟩ := busCycle_of_wait (s := atCount k s) (hwait z hz) z.2
  rw [hcycle, ← timeoutCycles_eq]
  rfl

/-- `S_DRIVE` lasts SETUP_CYCLES, then the clock line is asserted (R215). -/
theorem busRun_sDrive {s : State} {zs : List (Bool × Byte)} (hfsm : s.bus.fsm = .sDrive) (htcnt : s.bus.tcnt = 0)
    (hne : zs ≠ []) (hlen : zs.length = s.params.setupCycles) :
    busRun zs s =
      { s with bus := { s.bus with fsm := .sStrobe, clkO := false, tcnt := s.params.setupCycles } } := by
  refine busRun_counted (s := s) (n := s.params.setupCycles)
    (done := fun t => { t with bus := { t.bus with fsm := .sStrobe, clkO := false } })
    (fun z _ k => ?_) hne (by omega)
  have hfsm' : (atCount k s).bus.fsm = .sDrive := hfsm
  rw [busCycle, hfsm']
  rfl

theorem idleLines_eq_self {b : Bus} (hclk : b.clkO = true) (hoe : b.dOe = false) : idleLines b = b := by
  rw [idleLines, ← hclk, ← hoe]

/-- `GAP` with idle lines lasts RETRY_GAP_CYCLES, then the next attempt begins (R215, R226). -/
theorem busRun_gap {s : State} {zs : List (Bool × Byte)} (hfsm : s.bus.fsm = .gap) (hclk : s.bus.clkO = true)
    (hoe : s.bus.dOe = false) (htcnt : s.bus.tcnt = 0) (hne : zs ≠ []) (hlen : zs.length = s.params.retryGapCycles) :
    busRun zs s = { s with bus := { s.bus with fsm := .chkrdy, tcnt := s.params.retryGapCycles } } := by
  refine busRun_counted (s := s) (n := s.params.retryGapCycles)
    (done := fun t => { t with bus := { t.bus with fsm := .chkrdy } }) (fun z _ k => ?_) hne (by omega)
  have hfsm' : (atCount k s).bus.fsm = .gap := hfsm
  have hidle : idleLines (atCount k s).bus = (atCount k s).bus := idleLines_eq_self hclk hoe
  rw [busCycle, hfsm']
  simp only [hidle]
  rfl

theorem logFailure_params (c : Status) (s : State) : (logFailure c s).params = s.params := by
  unfold logFailure; split <;> rfl

/-- A failed attempt before the last, and the gap after it (R223, R226). -/
theorem busRun_failAttempt_retry {c : Status} {s : State} {zs : List (Bool × Byte)} (hatt : s.bus.att.toNat < 3)
    (hne : zs ≠ []) (hlen : zs.length = s.params.retryGapCycles) :
    busRun zs (failAttempt c s) =
      { logFailure c s with
        bus := { s.bus with fsm := .chkrdy, tcnt := s.params.retryGapCycles, clkO := true, dOe := false,
                            cause := statusCode c, att := s.bus.att + 1 } } := by
  rw [← logFailure_params c s] at hlen ⊢
  rw [failAttempt_retry hatt]
  exact busRun_gap rfl rfl rfl rfl hne hlen

/-! ### A peer whose line stays released -/

/-- `n` cycles with the peer's line released in each, whatever is on the data bus. -/
structure Released (n : Nat) (zs : List (Bool × Byte)) : Prop where
  length : zs.length = n
  line : ∀ z ∈ zs, z.1 = true

/-- The model's own quiet line is one such. -/
theorem released_quiet (n : Nat) : Released n (quiet n) :=
  ⟨List.length_replicate, fun _ hz => by rw [List.eq_of_mem_replicate hz]⟩

theorem Released.split {m n : Nat} {zs : List (Bool × Byte)} (h : Released (m + n) zs) :
    ∃ xs ys, zs = xs ++ ys ∧ Released m xs ∧ Released n ys := by
  have hlen := h.length
  refine ⟨zs.take m, zs.drop m, (List.take_append_drop ..).symm, ⟨?_, fun z hz => h.line z (List.mem_of_mem_take hz)⟩,
    ⟨?_, fun z hz => h.line z (List.mem_of_mem_drop hz)⟩⟩
  · rw [List.length_take]; omega
  · rw [List.length_drop]; omega

theorem Released.ne_nil {n : Nat} {zs : List (Bool × Byte)} (h : Released n zs) (hn : 1 ≤ n) : zs ≠ [] :=
  List.ne_nil_of_length_pos (h.length ▸ hn)

theorem Released.eq_singleton {zs : List (Bool × Byte)} (h : Released 1 zs) : ∃ d, zs = [(true, d)] := by
  obtain ⟨z, rfl⟩ := List.length_eq_one_iff.mp h.length
  exact ⟨z.2, by rw [← h.line z (List.mem_singleton_self z)]⟩

theorem satAdd_satAdd (c : BitVec 16) (m n : Nat) : satAdd (satAdd c m) n = satAdd c (m + n) := by
  have hm : (satAdd c m).toNat = min 0xFFFF (c.toNat + m) := by
    rw [satAdd, BitVec.toNat_ofNat]; exact Nat.mod_eq_of_lt (by omega)
  rw [satAdd, hm, satAdd]
  congr 1
  omega

/-- The block about to make attempt `att` at sending `f`, with `timeout_cnt` at `cnt`. -/
structure AttemptBegins (p : Params) (f : List Byte) (att : BitVec 2) (cnt : BitVec 16) (s : State) : Prop where
  params : s.params = p
  fsm : s.bus.fsm = .chkrdy
  txf : s.bus.txf = f
  att : s.bus.att = att
  timeoutCnt : s.timeoutCnt = cnt

/-- The cycles of an attempt that no acknowledge comes to: `CHKRDY`, `S_DRIVE`, `S_STROBE`, and T samples of `S_WACK`
(R215, R234). -/
def unackedCycles (p : Params) : Nat := 1 + p.setupCycles + 1 + p.fClk

/-- `S_DRIVE` with the first byte of the frame, `c`, just entered (R215). -/
def firstDriven (c : Byte) (s : State) : State :=
  { s with bus := { s.bus with fsm := .sDrive, idx := 0, dO := c, dOe := true, tcnt := 0 } }

/-- `S_WACK` of the first byte, just entered: the byte is driven and strobed (R215, R216). -/
def firstStrobed (c : Byte) (s : State) : State :=
  { firstDriven c s with bus := { (firstDriven c s).bus with fsm := .sWack, clkO := false } }

theorem exec_xcv_attemptBegins {f : List Byte} {s s0 : State} (h : exec (.xcv f) s = .next s0) :
    AttemptBegins s.params f 1 s.timeoutCnt s0 := by
  cases h
  exact ⟨rfl, rfl, rfl, rfl, rfl⟩

section Unacked

variable {p : Params} {c : Byte} {f : List Byte} {att : BitVec 2} {cnt : BitVec 16} {s : State} {zs : List (Bool × Byte)}
  (hp : p.Legal) (hs : AttemptBegins p (c :: f) att cnt s)

include hp hs

/-- The attempt fails with the first byte still driven and the clock line asserted (R218, R234). -/
theorem AttemptBegins.busRun_unacked (hzs : Released (unackedCycles p) zs) :
    busRun zs s = failAttempt .transportTimeout (atCount p.fClk (firstStrobed c s)) := by
  obtain ⟨rfl, hfsm, htxf, -, -⟩ := hs
  obtain ⟨-, -, -, -, -, -, hT, hsetup, -, -⟩ := hp
  obtain ⟨xs, wack, rfl, hxs, hwack⟩ := hzs.split
  obtain ⟨xs, strobe, rfl, hxs, hstrobe⟩ := hxs.split
  obtain ⟨chkrdy, drive, rfl, hchkrdy, hdrive⟩ := hxs.split
  obtain ⟨d, rfl⟩ := hchkrdy.eq_singleton
  obtain ⟨d', rfl⟩ := hstrobe.eq_singleton
  have hready : busRun [(true, d)] s = firstDriven c s := by
    rw [busRun_cons, busRun_nil, busCycle, hfsm]
    exact congrArg (fun b => { s with bus := b }) (driveOrTurn_some (congrArg (·[0]?) htxf))
  have hstrobed : busRun ([(true, d)] ++ drive ++ [(true, d')]) s = firstStrobed c s := by
    rw [busRun_append, busRun_append, hready,
      busRun_sDrive (s := firstDriven c s) rfl rfl (hdrive.ne_nil hsetup) hdrive.length]
    rfl
  rw [busRun_append, hstrobed]
  exact busRun_wait_timeout (fun z hz => congrArg (fun rdy => some (!rdy)) (hwack.line z hz)) rfl
    (hwack.ne_nil (by omega)) hwack.length

/-- Before the last attempt: the timeout is counted and the next attempt begins after the gap (R223, R226). -/
theorem AttemptBegins.retry (hatt : att.toNat < 3) (hzs : Released (unackedCycles p + p.retryGapCycles) zs) :
    AttemptBegins p (c :: f) (att + 1) (satAdd cnt 1) (busRun zs s) := by
  obtain ⟨attempt, gap, rfl, hattempt, hgap⟩ := hzs.split
  have hfail := hs.busRun_unacked hp hattempt
  obtain ⟨rfl, -, htxf, rfl, rfl⟩ := hs
  obtain ⟨-, -, -, -, -, -, -, -, -, hgapPos⟩ := hp
  rw [busRun_append, hfail,
    busRun_failAttempt_retry (s := atCount s.params.fClk (firstStrobed c s)) hatt (hgap.ne_nil hgapPos) hgap.length]
  exact ⟨rfl, rfl, htxf, rfl, satIncr_eq _⟩

/-- The last attempt: the timeout is counted and the block gives up (R223, R226). -/
theorem AttemptBegins.giveUp (hatt : att = 3) (hzs : Released (unackedCycles p) zs) :
    (busRun zs s).bus.fsm = .idle ∧ (busRun zs s).cp.rsp = [0x09, 3, 0x03, 0] ∧
      (busRun zs s).timeoutCnt = satAdd cnt 1 := by
  have hfail := hs.busRun_unacked hp hzs
  obtain ⟨-, -, -, hsatt, rfl⟩ := hs
  have hlast : s.bus.att = 3 := hsatt.trans hatt
  rw [hfail.trans (failAttempt_last (by simp [atCount, firstStrobed, firstDriven, hlast]))]
  exact ⟨rfl, by simp [atCount, firstStrobed, firstDriven, hlast, statusCode], satIncr_eq _⟩

end Unacked

/-- Settles O48: two attempts that are retried (`AttemptBegins.retry`), and the third, after which the block gives up
(`AttemptBegins.giveUp`); each counts one timeout. -/
theorem deadPeerIsUnreachable : Obligations.DeadPeerIsUnreachable := by
  unfold Obligations.DeadPeerIsUnreachable
  intro f zs s s0 hp hf hline hlen hexec
  obtain ⟨c, f, rfl⟩ := List.exists_cons_of_ne_nil hf
  have hzs : Released ((unackedCycles s.params + s.params.retryGapCycles) +
      ((unackedCycles s.params + s.params.retryGapCycles) + unackedCycles s.params)) zs :=
    ⟨by rw [hlen, unackedCycles]; omega, hline⟩
  obtain ⟨first, zs, rfl, hfirst, hzs⟩ := hzs.split
  obtain ⟨second, third, rfl, hsecond, hthird⟩ := hzs.split
  have h1 := exec_xcv_attemptBegins hexec
  have h2 := h1.retry hp (by decide) hfirst
  have h3 := h2.retry hp (by decide) hsecond
  rw [busRun_append, busRun_append]
  obtain ⟨hfsm, hrsp, hcnt⟩ := h3.giveUp hp rfl hthird
  exact ⟨hfsm, hrsp, by rw [hcnt, satAdd_satAdd, satAdd_satAdd]⟩

end Sys2Proof.Machine

/-! The control operations and the event counters (45_control.md R260 to R262). The two counters are one pair, so what
an operation, a cycle and an event do to them is one equation each; `exec_counters` and `busCycle_counters` name the two
places where the pair changes, and the event rule joins them. -/

namespace Sys2Proof.Machine

/-! ### `STAT` -/

/-- A 16-bit field by the number it carries (R64). -/
theorem be16_eq (u : BitVec 16) : be16 u = [BitVec.ofNat 8 (u.toNat / 256), BitVec.ofNat 8 u.toNat] := by
  simp [be16, BitVec.extractLsb', Nat.shiftRight_eq_div_pow]

theorem exec_stat (s : State) :
    exec .stat s = .next { s with cp := { s.cp with
      rsp := 0x00 :: BitVec.ofNat 8 s.fbuf.length :: (be16 s.csumErrCnt ++ be16 s.timeoutCnt) } } := rfl

/-- Settles O54: the response with its two fields written out (`be16_eq`). -/
theorem statReports : Obligations.StatReports := by
  unfold Obligations.StatReports
  exact fun s => ⟨rfl, rfl, by rw [exec_stat, be16_eq, be16_eq]; rfl⟩

/-! ### Illegal opcodes -/

theorem decode_wp_illegal {op : Byte} (h : op ≠ 0x10) (rest : List Byte) :
    decode .wp (op :: rest) = .error (.illegalOpcode op) := if_neg h

theorem decode_cp_illegal {op : Byte}
    (h : op ∉ [0x11, 0x12, 0x20, 0x21, 0x30, 0x31, 0x32, 0x40, 0x41, 0x50, (0x60 : Byte)]) (rest : List Byte) :
    decode .cp (op :: rest) = .error (.illegalOpcode op) := by
  simp only [List.mem_cons, List.not_mem_nil, or_false, not_or] at h
  simp only [decode, decodeCp, h, if_false]

/-- An opcode byte that an idle port does not decode is taken alone (R262). -/
theorem fetch_illegal {p : PortId} {s : State} {op : Byte} {inq : List Byte} (hbusy : (s.port p).busy = false)
    (hdec : (s.port p).dec = []) (hinq : (s.port p).inq = op :: inq)
    (hop : decode p [op] = .error (.illegalOpcode op)) :
    fetch p s = .illegal (s.setPort p { s.port p with inq := inq, dec := [], busy := true }) := by
  simp [fetch, accept_cons hbusy hinq, hdec, hop]

@[simp] theorem runEvent_requestEvent (p : PortId) (s : State) : runEvent (requestEvent p) s = requestByte p s := by
  cases p <;> rfl

/-- Settles O7: the port takes the byte alone (`fetch_illegal`) and the answer is one update of that port. -/
theorem illegalOpcodeAnswered : Obligations.IllegalOpcodeAnswered := by
  unfold Obligations.IllegalOpcodeAnswered
  intro p s op inq evs henv hbusy hdec hinq hop
  have hdecode : decode p [op] = .error (.illegalOpcode op) := by
    rcases hop with ⟨rfl, hop⟩ | ⟨rfl, hop⟩
    · exact decode_wp_illegal hop []
    · exact decode_cp_illegal hop []
  have hport : ({ s with env := evs } : State).port p = s.port p := by cases p <;> rfl
  have hfetch := fetch_illegal (s := { s with env := evs }) (hport ▸ hbusy) (hport ▸ hdec) (hport ▸ hinq) hdecode
  rw [step_cons henv, runEvent_requestEvent, requestByte, hfetch, hport]
  cases p <;> rfl

/-! ### The event counters: operations -/

/-- `csum_err_cnt` and `timeout_cnt` (10_state.md R36). -/
def counters (s : State) : BitVec 16 × BitVec 16 := (s.csumErrCnt, s.timeoutCnt)

theorem counters_eq_iff {s : State} {c d : BitVec 16} : counters s = (c, d) ↔ s.csumErrCnt = c ∧ s.timeoutCnt = d :=
  Prod.mk_inj

@[simp] theorem counters_setPort (s : State) (p : PortId) (q : Port) : counters (s.setPort p q) = counters s := by
  simp [counters]

@[simp] theorem counters_respond (p : PortId) (st : Status) (info : List Byte) (s : State) :
    counters (respond p st info s) = counters s := by
  simp [counters]

/-- `VALIDATE` counts a checksum mismatch and nothing else (R167). -/
theorem exec_validate_counters {s t : State} (h : exec .validate s = .next t) :
    counters t = counters s ∨ counters t = (satAdd s.csumErrCnt 1, s.timeoutCnt) := by
  cases hv : validateBytes s.fbuf with
  | needMore => rw [exec_validate_of_needMore hv] at h; cases h; exact .inl rfl
  | csum => rw [exec_validate_of_csum hv] at h; cases h; exact .inr (counters_eq_iff.mpr ⟨satIncr_eq _, rfl⟩)
  | ok => rw [exec_validate_of_ok hv] at h; cases h; exact .inl rfl

theorem execRbwr_counters {b : Byte} {s t : State} (h : execRbwr b s = .next t) : counters t = counters s := by
  unfold execRbwr at h
  split at h
  · cases h; rfl
  · split at h
    · cases h
    · next s' hw =>
      obtain ⟨-, rfl⟩ := memWrite_ok.mp hw
      cases h
      rfl

theorem execRbdrain_counters {s t : State} (h : execRbdrain s = .next t) : counters t = counters s := by
  unfold execRbdrain at h
  split at h <;> cases h
  rfl

theorem execBdata_counters {xs : List Byte} {s t : State} (h : execBdata xs s = .next t) :
    counters t = counters s := by
  unfold execBdata at h
  split at h <;> cases h <;> rfl

/-- Only `VALIDATE` advances a counter when it is performed: `XCV` then only starts its transfer (R261). -/
theorem exec_counters {i : Instr} {s t : State} (h : exec i s = .next t) :
    counters t = counters s ∨ i = .validate ∧ counters t = (satAdd s.csumErrCnt 1, s.timeoutCnt) := by
  cases i with
  | validate => exact (exec_validate_counters h).imp_right fun hcount => ⟨rfl, hcount⟩
  | rbwr => exact .inl (execRbwr_counters h)
  | rbdrain => exact .inl (execRbdrain_counters h)
  | bdata => exact .inl (execBdata_counters h)
  | rbstat | enc | dec | fbpush | fbclear | bval | xcv | stat => cases h; exact .inl rfl

/-! ### The event counters: request bytes -/

/-- A completed request was decoded on its port, and taking its last byte counts nothing. -/
theorem fetch_request {p : PortId} {s s' : State} {i : Instr} (h : fetch p s = .request i s') :
    (∃ bytes rest, decode p bytes = .ok (i, rest)) ∧ counters s' = counters s := by
  rcases fetch_cases p s with ⟨-, hf⟩ | ⟨b, q, -, ⟨j, rest, hd, hf⟩ | ⟨-, hf⟩ | ⟨op, -, hf⟩⟩ <;>
    rw [hf] at h <;> cases h
  exact ⟨⟨_, rest, hd⟩, counters_setPort ..⟩

/-- The write port decodes `RBWR` only (R89). -/
theorem decode_wp_ok {bytes rest : List Byte} {i : Instr} (h : decode .wp bytes = .ok (i, rest)) :
    ∃ b, i = .rbwr b := by
  cases bytes with
  | nil => cases h
  | cons op args =>
    by_cases hop : op = 0x10
    · subst hop
      cases args with
      | nil => cases h
      | cons b args => cases h; exact ⟨b, rfl⟩
    · rw [decode_wp_illegal hop] at h; cases h

/-- A request byte advances a counter only when it completes a `VALIDATE`. -/
theorem requestByte_counters {p : PortId} {s t : State} (h : requestByte p s = .next t) :
    counters t = counters s ∨
    ∃ s', fetch p s = .request .validate s' ∧ counters t = (satAdd s.csumErrCnt 1, s.timeoutCnt) := by
  unfold requestByte at h
  rcases fetch_cases p s with ⟨-, hf⟩ | ⟨b, q, -, ⟨i, rest, hd, hf⟩ | ⟨-, hf⟩ | ⟨op, -, hf⟩⟩ <;> rw [hf] at h
  · cases h; exact .inl rfl
  · obtain ⟨-, hkept⟩ := fetch_request hf
    obtain ⟨hcsum, htimeout⟩ := counters_eq_iff.mp hkept
    rcases exec_counters h with hsame | ⟨rfl, hcount⟩
    · exact .inl (hsame.trans hkept)
    · exact .inr ⟨_, hf, by rw [hcount, hcsum, htimeout]⟩
  · cases h; exact .inl (counters_setPort ..)
  · cases h; exact .inl ((counters_respond ..).trans (counters_setPort ..))

theorem fetch_wp_ne_validate {s s' : State} : fetch .wp s ≠ .request .validate s' := fun h => by
  obtain ⟨⟨_, _, hd⟩, -⟩ := fetch_request h
  obtain ⟨_, hi⟩ := decode_wp_ok hd
  cases hi

/-! ### The event counters: cycles of the bus controller -/

theorem failAttempt_csumErrCnt (c : Status) (s : State) : (failAttempt c s).csumErrCnt = s.csumErrCnt := by
  have hlog : (logFailure c s).csumErrCnt = s.csumErrCnt := by rw [logFailure]; split <;> rfl
  by_cases h : s.bus.att.toNat < 3
  · rw [failAttempt_retry h, hlog]
  · rw [failAttempt_last h, hlog]

theorem waitSample_csumErrCnt (seen : Bool) (onSeen : Bus → Bus) (s : State) :
    (waitSample seen onSeen s).csumErrCnt = s.csumErrCnt := by
  rcases waitSample_cases seen onSeen s with ⟨-, h⟩ | ⟨-, -, h⟩ | ⟨-, -, h⟩ <;> rw [h]
  exact failAttempt_csumErrCnt ..

theorem holdCycles_csumErrCnt (n : Nat) (leave : Bus → Bus) (s : State) :
    (holdCycles n leave s).csumErrCnt = s.csumErrCnt := by
  rcases holdCycles_cases n leave s with ⟨-, h⟩ | ⟨-, h⟩ <;> rw [h]

/-- The reply check of `EVAL` runs `V` as `VALIDATE` does and logs no mismatch (R224). -/
theorem checkReply_csumErrCnt (s : State) : (checkReply s).csumErrCnt = s.csumErrCnt := by
  unfold checkReply
  split
  · rfl
  · exact failAttempt_csumErrCnt ..
  · exact failAttempt_csumErrCnt ..

theorem busCycle_csumErrCnt (rdy : Bool) (d : Byte) (s : State) : (busCycle rdy d s).csumErrCnt = s.csumErrCnt := by
  cases hfsm : s.bus.fsm with
  | sWack | sWrel | rWstb | rWrel => rw [busCycle, hfsm]; exact waitSample_csumErrCnt ..
  | chkrdy =>
    rw [busCycle, hfsm]
    cases rdy with
    | true => rfl
    | false => exact failAttempt_csumErrCnt ..
  | sDrive | rAck | gap => rw [busCycle, hfsm]; exact holdCycles_csumErrCnt ..
  | eval => rw [busCycle, hfsm]; exact checkReply_csumErrCnt s
  | idle | sStrobe | sTurn => rw [busCycle, hfsm]

/-- No wait, so no timeout, while no `XCV` runs (R211). -/
theorem waitTimesOut_idle {s : State} (h : s.bus.fsm = .idle) (rdy : Bool) : waitTimesOut s rdy = false := by
  rw [waitTimesOut, h]
  rfl

/-- A cycle advances `timeout_cnt` or neither counter (R231). -/
theorem busCycle_counters (rdy : Bool) (d : Byte) (s : State) :
    counters (busCycle rdy d s) = counters s ∨
    s.bus.fsm ≠ .idle ∧ counters (busCycle rdy d s) = (s.csumErrCnt, satAdd s.timeoutCnt 1) := by
  have hcsum := busCycle_csumErrCnt rdy d s
  have htimeout := timeoutsAreCountedOnce s rdy d
  cases hout : waitTimesOut s rdy with
  | false =>
    rw [hout] at htimeout
    exact .inl (counters_eq_iff.mpr ⟨hcsum, htimeout⟩)
  | true =>
    rw [hout] at htimeout
    have hrunning : s.bus.fsm ≠ .idle := fun hidle => by
      rw [waitTimesOut_idle hidle] at hout
      cases hout
    exact .inr ⟨hrunning, counters_eq_iff.mpr ⟨hcsum, htimeout⟩⟩

/-! ### The event counters: one event -/

/-- Everything an event other than reset does to the counters (R261). -/
theorem runEvent_counters {e : Event} {s t : State} (h : runEvent e s = .next t) (hrst : e ≠ .rst) :
    counters t = counters s ∨
    (e = .cpReq ∧ ∃ s', fetch .cp s = .request .validate s' ∧
      counters t = (satAdd s.csumErrCnt 1, s.timeoutCnt)) ∨
    ∃ rdy d, e = .clk rdy d ∧ s.bus.fsm ≠ .idle ∧ counters t = (s.csumErrCnt, satAdd s.timeoutCnt 1) := by
  cases e with
  | cpReq => exact (requestByte_counters h).imp_right fun hvalidate => .inl ⟨rfl, hvalidate⟩
  | wpReq => exact (requestByte_counters h).imp_right fun ⟨_, hf, _⟩ => absurd hf fetch_wp_ne_validate
  | cpRsp | wpRsp => cases h; exact .inl (counters_setPort ..)
  | clk rdy d => cases h; exact (busCycle_counters rdy d s).imp_right fun hcount => .inr ⟨rdy, d, rfl, hcount⟩
  | rst => exact absurd rfl hrst

/-- Settles O55: the oldest event is reset, which clears both counters, or one of the three cases of
`runEvent_counters`. -/
theorem countersAdvanceOnlyAsStated : Obligations.CountersAdvanceOnlyAsStated := by
  unfold Obligations.CountersAdvanceOnlyAsStated
  intro s t h
  rcases step_cases s with ⟨henv, hstep⟩ | ⟨e, evs, henv, hstep⟩ <;> rw [hstep] at h <;> rw [henv]
  · cases h
    exact ⟨fun _ => ⟨fun hne => absurd rfl hne, fun hne => absurd rfl hne⟩, fun hnone => by cases hnone⟩
  refine ⟨fun hrst => ?_, fun hrst => ?_⟩
  · rcases runEvent_counters h (fun he => hrst (congrArg some he)) with
      hsame | ⟨rfl, s', hf, hcount⟩ | ⟨rdy, d, rfl, hrunning, hcount⟩
    · obtain ⟨hcsum, htimeout⟩ := counters_eq_iff.mp hsame
      exact ⟨fun hne => absurd hcsum hne, fun hne => absurd htimeout hne⟩
    · obtain ⟨hcsum, htimeout⟩ := counters_eq_iff.mp hcount
      exact ⟨fun _ => ⟨evs, s', rfl, hf, hcsum⟩, fun hne => absurd htimeout hne⟩
    · obtain ⟨hcsum, htimeout⟩ := counters_eq_iff.mp hcount
      exact ⟨fun hne => absurd hcsum hne, fun _ => ⟨rdy, d, rfl, hrunning, htimeout⟩⟩
  · cases hrst
    cases h
    exact ⟨rfl, rfl⟩

end Sys2Proof.Machine

/-! The request encoding (30_encoding.md R82 to R93): format by format the decoder inverts the encoder and the encoder the
decoder; so no request is the beginning of another, which is what a port that collects bytes one by one rests on. -/

namespace Sys2Proof

/-! ### Format W -/

/-- Operand assembly puts a 32-bit field together again (R64, R85). -/
theorem assembleW_be32 (v : Word32) :
    assembleW (v.extractLsb' 24 8) (v.extractLsb' 16 8) (v.extractLsb' 8 8) (v.extractLsb' 0 8) = v := by
  rw [assembleW, BitVec.extractLsb'_append_extractLsb'_eq_extractLsb' (by rfl),
    BitVec.extractLsb'_append_extractLsb'_eq_extractLsb' (by rfl),
    BitVec.extractLsb'_append_extractLsb'_eq_extractLsb' (by rfl), BitVec.extractLsb'_eq_self]

theorem be32_assembleW (w3 w2 w1 w0 : Byte) : be32 (assembleW w3 w2 w1 w0) = [w3, w2, w1, w0] := by
  have h3 : (assembleW w3 w2 w1 w0).extractLsb' 24 8 = w3 := by
    rw [assembleW, BitVec.extractLsb'_append_eq_of_le (by decide), BitVec.extractLsb'_append_eq_of_le (by decide)]
    exact BitVec.extractLsb'_append_eq_left
  have h2 : (assembleW w3 w2 w1 w0).extractLsb' 16 8 = w2 := by
    rw [assembleW, BitVec.extractLsb'_append_eq_of_le (by decide), BitVec.extractLsb'_append_eq_of_le (by decide)]
    exact BitVec.extractLsb'_append_eq_right
  have h1 : (assembleW w3 w2 w1 w0).extractLsb' 8 8 = w1 := by
    rw [assembleW, BitVec.extractLsb'_append_eq_of_le (by decide)]
    exact BitVec.extractLsb'_append_eq_right
  have h0 : (assembleW w3 w2 w1 w0).extractLsb' 0 8 = w0 := BitVec.extractLsb'_append_eq_right
  rw [be32, h3, h2, h1, h0]

theorem decodeW_be32 (k : Word32 → Instr) (v : Word32) (rest : List Byte) :
    decodeW k (be32 v ++ rest) = .ok (k v, rest) :=
  congrArg (fun u => Except.ok (k u, rest)) (assembleW_be32 v)

/-- A format W decoder answers only from the encoding of its operand. -/
theorem decodeW_ok {k : Word32 → Instr} {args rest : List Byte} {i : Instr} (h : decodeW k args = .ok (i, rest)) :
    ∃ v, i = k v ∧ args = be32 v ++ rest := by
  unfold decodeW at h
  split at h
  · cases h; exact ⟨_, rfl, by rw [be32_assembleW]; rfl⟩
  · cases h

/-! ### Formats B and D -/

theorem decodeB_ok {k : Byte → Instr} {args rest : List Byte} {i : Instr} (h : decodeB k args = .ok (i, rest)) :
    ∃ b, i = k b ∧ args = b :: rest := by
  unfold decodeB at h
  split at h
  · cases h; exact ⟨_, rfl, rfl⟩
  · cases h

theorem decodeD_ok {k : Byte → Byte → Byte → Byte → Byte → Instr} {args rest : List Byte} {i : Instr}
    (h : decodeD k args = .ok (i, rest)) :
    ∃ d0 d1 d2 d3 d4, i = k d0 d1 d2 d3 d4 ∧ args = [d0, d1, d2, d3, d4] ++ rest := by
  unfold decodeD at h
  split at h
  · cases h; exact ⟨_, _, _, _, _, rfl, rfl⟩
  · cases h

/-! ### Format L -/

theorem lengthFits_iff {xs : List Byte} : lengthFits xs = true ↔ xs.length ≤ 255 := decide_eq_true_iff

theorem lenByte_toNat {xs : List Byte} (h : xs.length ≤ 255) : (lenByte xs).toNat = xs.length := by
  rw [lenByte, BitVec.toNat_ofNat]; exact Nat.mod_eq_of_lt (by omega)

/-- A list of as many bytes as a length byte says has that length byte (R84). -/
theorem lenByte_of_length {xs : List Byte} {len : Byte} (h : xs.length = len.toNat) : lenByte xs = len := by
  rw [lenByte, h, BitVec.ofNat_toNat, BitVec.setWidth_eq]

theorem decodeL_lenByte (k : List Byte → Instr) {xs : List Byte} (h : lengthFits xs = true) (rest : List Byte) :
    decodeL k (lenByte xs :: (xs ++ rest)) = .ok (k xs, rest) := by
  simp [decodeL, lenByte_toNat (lengthFits_iff.mp h)]

/-- A format L decoder answers only from the encoding of its list, whose length then fits a byte. -/
theorem decodeL_ok {k : List Byte → Instr} {args rest : List Byte} {i : Instr} (h : decodeL k args = .ok (i, rest)) :
    ∃ xs, i = k xs ∧ lengthFits xs = true ∧ args = lenByte xs :: (xs ++ rest) := by
  unfold decodeL at h
  split at h
  · next len args =>
    split at h
    · next hle =>
      cases h
      have hlen : (args.take len.toNat).length = len.toNat := List.length_take_of_le hle
      refine ⟨_, rfl, lengthFits_iff.mpr ?_, ?_⟩
      · have := len.isLt
        omega
      · rw [lenByte_of_length hlen, List.take_append_drop]
    · cases h
  · cases h

/-! ### Illegal opcodes -/

theorem decodeB_ne_illegal (k : Byte → Instr) (args : List Byte) (op : Byte) :
    decodeB k args ≠ .error (.illegalOpcode op) := by
  unfold decodeB; split <;> simp

theorem decodeW_ne_illegal (k : Word32 → Instr) (args : List Byte) (op : Byte) :
    decodeW k args ≠ .error (.illegalOpcode op) := by
  unfold decodeW; split <;> simp

theorem decodeD_ne_illegal (k : Byte → Byte → Byte → Byte → Byte → Instr) (args : List Byte) (op : Byte) :
    decodeD k args ≠ .error (.illegalOpcode op) := by
  unfold decodeD; split <;> simp

theorem decodeL_ne_illegal (k : List Byte → Instr) (args : List Byte) (op : Byte) :
    decodeL k args ≠ .error (.illegalOpcode op) := by
  unfold decodeL
  split
  · split <;> simp
  · simp

/-! ### The opcodes of a port -/

/-- The opcodes a port decodes (Table E4, R89, R90). -/
def portOpcodes : PortId → List Byte
  | .wp => [0x10]
  | .cp => [0x11, 0x12, 0x20, 0x21, 0x30, 0x31, 0x32, 0x40, 0x41, 0x50, 0x60]

/-- The format of an opcode on port `p` (Table E2, Table E4): the request it begins, how that is encoded, and which
decoder reads its operands. -/
inductive OpcodeFormat (p : PortId) (op : Byte) : Prop
  | none (i : Instr) (dec : ∀ args, decode p (op :: args) = .ok (i, args)) (enc : encode i = [op])
      (wf : i.wellFormed = true) (port : i.port = p)
  | byte (k : Byte → Instr) (dec : ∀ args, decode p (op :: args) = decodeB k args) (enc : ∀ b, encode (k b) = [op, b])
      (wf : ∀ b, (k b).wellFormed = true) (port : ∀ b, (k b).port = p)
  | word (k : Word32 → Instr) (dec : ∀ args, decode p (op :: args) = decodeW k args)
      (enc : ∀ v, encode (k v) = op :: be32 v) (wf : ∀ v, (k v).wellFormed = true) (port : ∀ v, (k v).port = p)
  | digits (k : Byte → Byte → Byte → Byte → Byte → Instr) (dec : ∀ args, decode p (op :: args) = decodeD k args)
      (enc : ∀ d0 d1 d2 d3 d4, encode (k d0 d1 d2 d3 d4) = [op, d0, d1, d2, d3, d4])
      (wf : ∀ d0 d1 d2 d3 d4, (k d0 d1 d2 d3 d4).wellFormed = true) (port : ∀ d0 d1 d2 d3 d4, (k d0 d1 d2 d3 d4).port = p)
  | list (k : List Byte → Instr) (dec : ∀ args, decode p (op :: args) = decodeL k args)
      (enc : ∀ xs, encode (k xs) = encodeL op xs) (wf : ∀ xs, (k xs).wellFormed = lengthFits xs)
      (port : ∀ xs, (k xs).port = p)

/-- Every opcode a port decodes has a format (Table E4). -/
theorem opcodeFormat {p : PortId} {op : Byte} (h : op ∈ portOpcodes p) : OpcodeFormat p op := by
  cases p with
  | wp =>
    obtain rfl := List.mem_singleton.mp h
    exact .byte .rbwr (fun _ => rfl) (fun _ => rfl) (fun _ => rfl) fun _ => rfl
  | cp =>
    simp only [portOpcodes, List.mem_cons, List.not_mem_nil, or_false] at h
    rcases h with rfl | rfl | rfl | rfl | rfl | rfl | rfl | rfl | rfl | rfl | rfl
    · exact .none .rbdrain (fun _ => rfl) rfl rfl rfl
    · exact .none .rbstat (fun _ => rfl) rfl rfl rfl
    · exact .word .enc (fun _ => rfl) (fun _ => rfl) (fun _ => rfl) fun _ => rfl
    · exact .digits .dec (fun _ => rfl) (fun _ _ _ _ _ => rfl) (fun _ _ _ _ _ => rfl) fun _ _ _ _ _ => rfl
    · exact .list .fbpush (fun _ => rfl) (fun _ => rfl) (fun _ => rfl) fun _ => rfl
    · exact .none .validate (fun _ => rfl) rfl rfl rfl
    · exact .none .fbclear (fun _ => rfl) rfl rfl rfl
    · exact .word .bval (fun _ => rfl) (fun _ => rfl) (fun _ => rfl) fun _ => rfl
    · exact .list .bdata (fun _ => rfl) (fun _ => rfl) (fun _ => rfl) fun _ => rfl
    · exact .list .xcv (fun _ => rfl) (fun _ => rfl) (fun _ => rfl) fun _ => rfl
    · exact .none .stat (fun _ => rfl) rfl rfl rfl

theorem decode_ne_illegal {p : PortId} {op : Byte} (h : op ∈ portOpcodes p) (args : List Byte) (x : Byte) :
    decode p (op :: args) ≠ .error (.illegalOpcode x) := by
  cases opcodeFormat h with
  | none i dec => rw [dec]; exact fun h => nomatch h
  | byte k dec => rw [dec]; exact decodeB_ne_illegal k args x
  | word k dec => rw [dec]; exact decodeW_ne_illegal k args x
  | digits k dec => rw [dec]; exact decodeD_ne_illegal k args x
  | list k dec => rw [dec]; exact decodeL_ne_illegal k args x

/-- The opcode alone decides whether a request is illegal (R82, R89, R90). -/
theorem decode_illegal_iff {p : PortId} {op x : Byte} {args : List Byte} :
    decode p (op :: args) = .error (.illegalOpcode x) ↔ x = op ∧ op ∉ portOpcodes p := by
  have hillegal : op ∉ portOpcodes p → decode p (op :: args) = .error (.illegalOpcode op) := fun hop => by
    cases p with
    | wp => exact Machine.decode_wp_illegal (List.mem_singleton.not.mp hop) args
    | cp => exact Machine.decode_cp_illegal hop args
  constructor
  · intro h
    have hop : op ∉ portOpcodes p := fun hmem => decode_ne_illegal hmem args x h
    rw [hillegal hop] at h
    cases h
    exact ⟨rfl, hop⟩
  · rintro ⟨rfl, hop⟩
    exact hillegal hop

/-! ### Whole requests -/

/-- Settles O1: the opcode selects the format's decoder, which inverts the format's encoder. -/
theorem decodeEncodeRoundTrip : Obligations.DecodeEncodeRoundTrip := by
  unfold Obligations.DecodeEncodeRoundTrip
  intro i rest hwf
  cases i with
  | enc v => exact decodeW_be32 .enc v rest
  | bval v => exact decodeW_be32 .bval v rest
  | fbpush xs => exact decodeL_lenByte .fbpush hwf rest
  | bdata xs => exact decodeL_lenByte .bdata hwf rest
  | xcv f => exact decodeL_lenByte .xcv hwf rest
  | rbwr | rbdrain | rbstat | dec | validate | fbclear | stat => rfl

/-- Settles O2: the opcode is one the port decodes, and its format's decoder answers only from the format's encoding. -/
theorem decodedBytesAreTheEncoding : Obligations.DecodedBytesAreTheEncoding := by
  unfold Obligations.DecodedBytesAreTheEncoding
  intro p bytes rest i h
  cases bytes with
  | nil => cases h
  | cons op args =>
    have hop : op ∈ portOpcodes p := by
      by_contra hop
      rw [decode_illegal_iff.mpr ⟨rfl, hop⟩] at h
      cases h
    cases opcodeFormat hop with
    | none j dec enc wf port =>
      rw [dec] at h
      cases h
      exact ⟨by rw [enc]; rfl, wf, port⟩
    | byte k dec enc wf port =>
      rw [dec] at h
      obtain ⟨b, rfl, rfl⟩ := decodeB_ok h
      exact ⟨by rw [enc]; rfl, wf b, port b⟩
    | word k dec enc wf port =>
      rw [dec] at h
      obtain ⟨v, rfl, rfl⟩ := decodeW_ok h
      exact ⟨by rw [enc]; rfl, wf v, port v⟩
    | digits k dec enc wf port =>
      rw [dec] at h
      obtain ⟨d0, d1, d2, d3, d4, rfl, rfl⟩ := decodeD_ok h
      exact ⟨by rw [enc]; rfl, wf .., port ..⟩
    | list k dec enc wf port =>
      rw [dec] at h
      obtain ⟨xs, rfl, hxs, rfl⟩ := decodeL_ok h
      exact ⟨by rw [enc]; rfl, (wf xs).trans hxs, port xs⟩

/-- Settles O3: each word's opcode and operand bytes are literal. -/
theorem specWordsDecode : Obligations.SpecWordsDecode := by
  unfold Obligations.SpecWordsDecode
  exact ⟨rfl, rfl, rfl, rfl, rfl, rfl, rfl, rfl⟩

/-- Settles O4: the opcode alone decides (`decode_illegal_iff`). -/
theorem illegalOpcodesPerPort : Obligations.IllegalOpcodesPerPort := by
  unfold Obligations.IllegalOpcodesPerPort
  intro op rest
  refine ⟨decode_illegal_iff.trans ?_, decode_illegal_iff.trans (and_iff_right rfl)⟩
  rw [and_iff_right rfl, portOpcodes, List.mem_singleton]

/-! ### The bytes of a request that has not arrived whole -/

/-- A beginning of a request that is not the whole request is no request yet: a request decoded from it would decode
from the whole too. -/
theorem decode_take_encode {i : Instr} (hwf : i.wellFormed = true) {k : Nat} (hk : k < (encode i).length) :
    decode i.port ((encode i).take k) = .error .incomplete := by
  have hwhole : decode i.port (encode i) = .ok (i, []) := by simpa using decodeEncodeRoundTrip i [] hwf
  have hsplit := List.take_append_drop k (encode i)
  have hdrop : (encode i).drop k ≠ [] := List.ne_nil_of_length_pos (by rw [List.length_drop]; omega)
  cases hdec : decode i.port ((encode i).take k) with
  | ok r =>
    obtain ⟨j, rest⟩ := r
    obtain ⟨hbytes, hjwf, hjport⟩ := decodedBytesAreTheEncoding _ _ _ _ hdec
    rw [← hsplit, hbytes, List.append_assoc, ← hjport, decodeEncodeRoundTrip j _ hjwf] at hwhole
    simp only [Except.ok.injEq, Prod.mk.injEq, List.append_eq_nil_iff] at hwhole
    obtain ⟨-, -, hnil⟩ := hwhole
    exact absurd hnil hdrop
  | error e =>
    cases e with
    | incomplete => rfl
    | illegalOpcode x =>
      cases htake : (encode i).take k with
      | nil => rw [htake] at hdec; cases hdec
      | cons op args =>
        rw [htake] at hdec hsplit
        obtain ⟨-, hop⟩ := decode_illegal_iff.mp hdec
        rw [← hsplit, List.cons_append, decode_illegal_iff.mpr ⟨rfl, hop⟩] at hwhole
        cases hwhole

/-- A byte that completes a request is its last: nothing of a next request is collected with it. -/
theorem decode_snoc_ok {p : PortId} {dec rest : List Byte} {b : Byte} {i : Instr}
    (hdec : decode p dec = .error .incomplete) (h : decode p (dec ++ [b]) = .ok (i, rest)) : rest = [] := by
  obtain ⟨hbytes, hwf, hport⟩ := decodedBytesAreTheEncoding _ _ _ _ h
  rcases List.eq_nil_or_concat rest with rfl | ⟨rest, c, rfl⟩
  · rfl
  · rw [List.concat_eq_append, ← List.append_assoc] at hbytes
    obtain ⟨rfl, -⟩ := List.append_inj' hbytes rfl
    rw [← hport, decodeEncodeRoundTrip i rest hwf] at hdec
    cases hdec

/-- An opcode is found illegal when it arrives: no operand bytes are collected for it. -/
theorem decode_snoc_illegal {p : PortId} {dec : List Byte} {b op : Byte}
    (hdec : decode p dec = .error .incomplete) (h : decode p (dec ++ [b]) = .error (.illegalOpcode op)) : dec = [] := by
  cases dec with
  | nil => rfl
  | cons c dec =>
    obtain ⟨-, hop⟩ := decode_illegal_iff.mp h
    rw [decode_illegal_iff.mpr ⟨rfl, hop⟩] at hdec
    cases hdec

end Sys2Proof

/-! The message ports byte by byte (10_state.md R37, R38; 20_memory.md R65; 30_encoding.md R82): one rule per step of a
port, and the collection of a request and the delivery of a response by induction on the bytes. -/

namespace Sys2Proof.Machine

/-! ### One step of a port -/

@[simp] theorem port_setEnv (s : State) (evs : List Event) (p : PortId) :
    ({ s with env := evs } : State).port p = s.port p := by cases p <;> rfl

@[simp] theorem setPort_setPort (s : State) (p : PortId) (q r : Port) : (s.setPort p q).setPort p r = s.setPort p r := by
  cases p <;> rfl

@[simp] theorem setPort_setEnv (s : State) (p : PortId) (q : Port) (evs : List Event) :
    ({ s.setPort p q with env := evs } : State) = ({ s with env := evs } : State).setPort p q := by cases p <;> rfl

@[simp] theorem setPort_port (s : State) (p : PortId) : s.setPort p (s.port p) = s := by cases p <;> rfl

@[simp] theorem runEvent_responseEvent (p : PortId) (s : State) :
    runEvent (responseEvent p) s = .next (responseByte p s) := by cases p <;> rfl

/-- The issuer of port `p` presents a request byte. -/
theorem step_requestEvent {p : PortId} {s : State} {evs : List Event} (henv : s.env = requestEvent p :: evs) :
    step s = requestByte p { s with env := evs } := by
  rw [step_cons henv, runEvent_requestEvent]

/-- The issuer of port `p` takes a response byte. -/
theorem step_responseEvent {p : PortId} {s : State} {evs : List Event} (henv : s.env = responseEvent p :: evs) :
    step s = .next (responseByte p { s with env := evs }) := by
  rw [step_cons henv, runEvent_responseEvent]

theorem requestByte_of_busy {p : PortId} {s : State} (h : (s.port p).busy = true) : requestByte p s = .next s := by
  simp [requestByte, fetch, accept_of_busy h]

section Fetch

variable {p : PortId} {s : State} {b : Byte} {inq : List Byte} (hbusy : (s.port p).busy = false)
  (hinq : (s.port p).inq = b :: inq)

include hbusy hinq

theorem requestByte_of_complete {i : Instr} {rest : List Byte} (h : decode p ((s.port p).dec ++ [b]) = .ok (i, rest)) :
    requestByte p s = exec i (s.setPort p { s.port p with inq := inq, dec := rest, busy := true }) := by
  simp [requestByte, fetch, accept_cons hbusy hinq, h]

theorem requestByte_of_incomplete (h : decode p ((s.port p).dec ++ [b]) = .error .incomplete) :
    requestByte p s = .next (s.setPort p { s.port p with inq := inq, dec := (s.port p).dec ++ [b] }) := by
  simp [requestByte, fetch, accept_cons hbusy hinq, h]

end Fetch

/-- Settles O5: the byte completes the request, so the fetched instruction is performed. -/
theorem stepRunsTheDecodedRequest : Obligations.StepRunsTheDecodedRequest := by
  unfold Obligations.StepRunsTheDecodedRequest
  intro p s b inq evs i rest henv hbusy hinq hdec
  rw [step_requestEvent henv, requestByte_of_complete (b := b) (inq := inq) (i := i) (rest := rest)
    (by simpa using hbusy) (by simpa using hinq) (by simpa using hdec), port_setEnv]

/-- Settles O8: a busy port accepts no byte (`requestByte_of_busy`). -/
theorem busyPortTakesNothing : Obligations.BusyPortTakesNothing := by
  unfold Obligations.BusyPortTakesNothing
  intro p s evs henv hbusy
  rw [step_requestEvent henv, requestByte_of_busy (by simpa using hbusy)]

/-! ### A request, byte by byte -/

theorem runSteps_succ {k : Nat} {s t : State} (h : step s = .next t) : runSteps (k + 1) s = runSteps k t := by
  simp [runSteps, h]

/-- The last of several steps may stop or answer: the run ends as it does. -/
theorem runSteps_last {k : Nat} {s t : State} (h : runSteps k s = .next t) : runSteps (k + 1) s = step t := by
  induction k generalizing s with
  | zero =>
    cases h
    rw [runSteps]
    cases step t <;> simp [runSteps]
  | succ k ih =>
    rw [runSteps] at h ⊢
    cases hs : step s with
    | next u => rw [hs] at h; exact ih h
    | fault => rw [hs] at h; cases h
    | refused => rw [hs] at h; cases h

/-- Bytes that complete no request only move into the decoder (R37, R82). -/
theorem runSteps_collect {p : PortId} (xs : List Byte) {s : State} {rest : List Byte} {evs : List Event}
    (hbusy : (s.port p).busy = false) (hinq : (s.port p).inq = xs ++ rest)
    (henv : s.env = List.replicate xs.length (requestEvent p) ++ evs)
    (hdec : ∀ j, j < xs.length → decode p ((s.port p).dec ++ xs.take (j + 1)) = .error .incomplete) :
    runSteps xs.length s = .next (({ s with env := evs } : State).setPort p
      { s.port p with inq := rest, dec := (s.port p).dec ++ xs }) := by
  induction xs generalizing s with
  | nil =>
    rw [List.length_nil, List.replicate_zero, List.nil_append] at henv
    rw [List.nil_append] at hinq
    rw [List.append_nil, ← hinq, ← henv, setPort_port]
    rfl
  | cons x xs ih =>
    have hfirst : requestByte p { s with env := List.replicate xs.length (requestEvent p) ++ evs } = _ :=
      requestByte_of_incomplete (b := x) (inq := xs ++ rest) (by simpa using hbusy) (by simpa using hinq)
        (by simpa using hdec 0 (by simp))
    rw [List.length_cons, runSteps_succ ((step_requestEvent henv).trans hfirst)]
    rw [ih (by simpa using hbusy) (by simp) (by simp) fun j hj => by
      simpa using hdec (j + 1) (by simpa using hj)]
    cases p <;> simp

/-! ### The decoder's view of a request -/

theorem length_encode (i : Instr) : (encode i).length = i.requestLength := by
  cases i with
  | fbpush xs => exact (Laws.EncodingShape.fbpush xs).2
  | bdata xs => exact (Laws.EncodingShape.bdata xs).2
  | xcv f => exact (Laws.EncodingShape.xcv f).2
  | rbwr | rbdrain | rbstat | enc | dec | validate | fbclear | bval | stat => rfl

theorem encode_eq_cons (i : Instr) : encode i = i.opcode :: (encode i).tail := by cases i <;> rfl

/-- What is due of a list of which `m` bytes after the opcode have come: the length byte, or what that says (R82). -/
theorem operandsDue_list {op : Byte} (hop : op ∈ [0x30, 0x41, (0x50 : Byte)]) {xs : List Byte}
    (hxs : lengthFits xs = true) {m : Nat} (hm : m < 1 + xs.length) :
    operandsDue op ((lenByte xs :: xs).take m) = if m = 0 then 1 else 2 + xs.length - (m + 1) := by
  have hdue : ∀ args, operandsDue op args = match args with
      | [] => 1
      | len :: ys => len.toNat - ys.length := fun args => by
    simp only [List.mem_cons, List.not_mem_nil, or_false] at hop
    rcases hop with rfl | rfl | rfl <;> rfl
  rw [hdue]
  cases m with
  | zero => rfl
  | succ m =>
    simp only [List.take_succ_cons, lenByte_toNat (lengthFits_iff.mp hxs), List.length_take]
    rw [if_neg (by omega)]
    omega

/-- After `m` operand bytes the decoder knows how many are due: those left of the request, in format L from the length
byte on (R37, R82). -/
theorem operandsDue_take {i : Instr} (hwf : i.wellFormed = true) {m : Nat} (hm : m + 1 < i.requestLength) :
    operandsDue i.opcode ((encode i).tail.take m) =
      if m = 0 ∧ i.opcode ∈ [0x30, 0x41, (0x50 : Byte)] then 1 else i.requestLength - (m + 1) := by
  cases i with
  | rbdrain | rbstat | validate | fbclear | stat => exact absurd hm (by simp [Instr.requestLength])
  | rbwr | enc | dec | bval =>
    rw [if_neg (by simp [Instr.opcode])]
    simp only [Instr.requestLength] at hm
    simp only [Instr.opcode, encode, be32, List.tail_cons, operandsDue, Instr.requestLength, List.length_take]
    simp
    omega
  | fbpush xs | bdata xs | xcv xs =>
    simp only [Instr.requestLength] at hm
    refine (operandsDue_list (by simp [Instr.opcode]) hwf (by omega)).trans ?_
    simp [Instr.opcode, Instr.requestLength]

theorem decoderView_take_encode {i : Instr} (hwf : i.wellFormed = true) {k : Nat} (hk : 1 ≤ k)
    (hlt : k < i.requestLength) :
    decoderView ((encode i).take k) = .collecting i.opcode
      (if k = 1 ∧ i.opcode ∈ [0x30, 0x41, (0x50 : Byte)] then 1 else i.requestLength - k) := by
  obtain ⟨m, rfl⟩ := Nat.exists_eq_add_of_le' hk
  have hdue := operandsDue_take hwf hlt
  rw [encode_eq_cons, List.take_succ_cons, decoderView, hdue]
  simp

/-- Settles O6: a proper beginning of the request is collected (`decode_take_encode`, `runSteps_collect`), and the last
byte makes it whole. -/
theorem requestPerformedOnItsLastByte : Obligations.RequestPerformedOnItsLastByte := by
  unfold Obligations.RequestPerformedOnItsLastByte
  intro i s rest evs k hwf hbusy hdec hinq henv
  have hcollect : ∀ j < i.requestLength, ∀ evs', s.env = List.replicate j (requestEvent i.port) ++ evs' →
      runSteps j s = .next (({ s with env := evs' } : State).setPort i.port
        { s.port i.port with inq := (encode i).drop j ++ rest, dec := (encode i).take j }) := fun j hj evs' henv' => by
    have hlen : ((encode i).take j).length = j := by
      rw [List.length_take, length_encode]
      omega
    have hrun := runSteps_collect ((encode i).take j) (rest := (encode i).drop j ++ rest) (evs := evs') hbusy
      (by rw [hinq, ← List.append_assoc, List.take_append_drop]) (by rw [hlen, henv']) fun l hl => by
        rw [hdec, List.nil_append, List.take_take, Nat.min_eq_left (by omega)]
        exact decode_take_encode hwf (by rw [length_encode]; omega)
    rw [hlen, hdec, List.nil_append] at hrun
    exact hrun
  refine ⟨fun hk => ⟨hcollect k hk evs henv, fun hk1 => decoderView_take_encode hwf hk1 hk⟩, fun hk => ?_⟩
  obtain ⟨m, hm⟩ : ∃ m, i.requestLength = m + 1 :=
    Nat.exists_eq_succ_of_ne_zero (by cases i <;> simp [Instr.requestLength])
  obtain rfl : k = m + 1 := hk.trans hm
  have hlast : m < (encode i).length := by rw [length_encode]; omega
  have hbytes : (encode i).take m ++ [(encode i)[m]] = encode i := by
    rw [List.take_append_getElem, List.take_of_length_le (by rw [length_encode]; omega)]
  have hdrop : (encode i).drop m = [(encode i)[m]] := by
    rw [List.drop_eq_getElem_cons hlast, List.drop_eq_nil_of_le (by rw [length_encode]; omega)]
  rw [List.replicate_succ', List.append_assoc] at henv
  rw [runSteps_last (hcollect m (by omega) _ henv), hdrop,
    stepRunsTheDecodedRequest i.port _ (encode i)[m] rest evs i [] (by simp) (by simpa using hbusy) (by simp)
      (by simpa [hbytes] using decodeEncodeRoundTrip i [] hwf)]
  cases i.port <;> rfl

/-! ### A response, byte by byte -/

/-- A port that has delivered `k` bytes of its response (R38, R65). -/
def deliveredPort (k : Nat) (q : Port) : Port :=
  { q with rsp := q.rsp.drop k, out := q.out ++ q.rsp.take k, busy := decide (k < q.rsp.length) }

theorem deliveredPort_zero {q : Port} (hbusy : q.busy = true) (hrsp : q.rsp ≠ []) : deliveredPort 0 q = q := by
  have hpos : decide (0 < q.rsp.length) = q.busy := by
    rw [hbusy]
    exact decide_eq_true (List.length_pos_of_ne_nil hrsp)
  rw [deliveredPort, hpos, List.drop_zero, List.take_zero, List.append_nil]

/-- The next byte in list order is delivered; the port stays busy exactly while a byte is left. -/
theorem deliver_deliveredPort {k : Nat} {q : Port} (hk : k < q.rsp.length) :
    (deliveredPort k q).deliver = deliveredPort (k + 1) q := by
  have hbusy : (!(q.rsp.drop (k + 1)).isEmpty) = decide (k + 1 < q.rsp.length) := by
    rw [← Bool.coe_iff_coe]
    simp
  rw [deliver_cons (q := deliveredPort k q) (List.drop_eq_getElem_cons hk)]
  simp only [deliveredPort, hbusy, List.append_assoc, List.take_append_getElem]

/-- Settles O9: each event delivers the next byte (`deliver_deliveredPort`), by induction on the number of events. -/
theorem responseDeliveredInOrder : Obligations.ResponseDeliveredInOrder := by
  unfold Obligations.ResponseDeliveredInOrder
  intro p s evs k henv hbusy hrsp hk
  suffices h : runSteps k s = .next (({ s with env := evs } : State).setPort p (deliveredPort k (s.port p))) from h
  induction k generalizing evs with
  | zero =>
    rw [List.replicate_zero, List.nil_append] at henv
    rw [deliveredPort_zero hbusy hrsp, ← henv, setPort_port]
    rfl
  | succ k ih =>
    rw [List.replicate_succ', List.append_assoc] at henv
    rw [runSteps_last (ih _ henv (by omega)), step_responseEvent (p := p) (evs := evs) (by simp), responseByte,
      setPort_setEnv, port_setPort, deliver_deliveredPort (by omega), setPort_setPort]

end Sys2Proof.Machine

/-! Command frames (30_encoding.md R94 to R97): a plain command frame is a frame with a plain body and the body's own
checksum, so the framer's rule for those gives its verdict, and a data reply can be one (43_reply_builder.md R196). -/

namespace Sys2Proof.Machine

theorem csumForce_le_checksum (l : List Byte) : 0x80 ≤ (checksum l).toNat := by
  have hforce : Config.csumForce.toNat ≤ (checksum l).toNat := by
    rw [checksum, BitVec.toNat_or]
    exact Nat.right_le_or
  exact hforce

/-- A plain command frame validates whole, with its own address byte (R94 to R97, 42_framer.md R161 to R163). -/
theorem validateBytes_commandFrame {a c : Byte} {p : List Byte} (h : ∀ x ∈ a :: c :: p, plainByte x = true) :
    validateBytes (commandFrame a c p) = .ok 0 (4 + p.length) a ((a.toNat : Int) - 10) (commandFrame a c p) := by
  have hend : (a :: c :: p).length + 2 = 4 + p.length := by
    simp only [List.length_cons]
    omega
  rw [commandFrame_eq_framed, validateBytes_framed_checksum h, hend]
  rfl

/-- Settles O32: the frame's verdict is `validateBytes_commandFrame`, the rest is its checksum byte. -/
theorem commandFrameValidates : Obligations.CommandFrameValidates := by
  unfold Obligations.CommandFrameValidates
  intro a c p hplain
  refine ⟨?_, csumForce_le_checksum _, plainByte_checksum _, validateBytes_commandFrame hplain⟩
  rw [commandFrame_eq_framed, length_framed]
  simp only [List.length_cons]
  omega

/-- The bytes of a command frame before its ETX. -/
theorem dropLast_commandFrame_snoc (a c : Byte) (p : List Byte) :
    (commandFrame a c p).dropLast ++ [Config.etx] = commandFrame a c p := by
  have hsnoc : commandFrame a c p = (Config.stx :: a :: c :: (p ++ [checksum (a :: c :: p)])) ++ [Config.etx] := by
    simp [commandFrame]
  rw [hsnoc, List.dropLast_concat]

/-- Settles O38: the terminator completes the frame, which fits MAX_FRAME, and the frame validates. -/
theorem dataReplyCanBeAFrame : Obligations.DataReplyCanBeAFrame := by
  unfold Obligations.DataReplyCanBeAFrame
  intro a c p s t hterm hplain hfits hexec
  have hlen : (commandFrame a c p).dropLast.length + 1 = (commandFrame a c p).length := by
    conv_rhs => rw [← dropLast_commandFrame_snoc, List.length_append]
    rfl
  rw [exec_bdata_of_fits (hlen ▸ hfits)] at hexec
  cases hexec
  have hreply : (commandFrame a c p).dropLast ++ [s.params.dataTerm] = commandFrame a c p := by
    rw [hterm]
    exact dropLast_commandFrame_snoc a c p
  exact ⟨hreply, (congrArg validateBytes hreply).trans (validateBytes_commandFrame hplain)⟩

end Sys2Proof.Machine

/-! The bus controller's state table (44_bus_transport.md R215) as a relation: `Row` has one constructor per exit of a
row, with the exit's guard, the peer's draws in it (R240) and what it does. A cycle does what its row says
(`Row.busCycle_eq`) and every cycle has a row (`exists_row`), so later proofs split on rows and do not unfold a cycle. -/

namespace Sys2Proof.Machine

/-! ### Rows -/

/-- What a cycle does: the controller goes on with other registers, its attempt fails, or the reply is relayed. -/
inductive CycleEffect where
  | goes (b : Bus)
  | fails (c : Status) (b : Bus)
  | relays

/-- The block after a cycle with the given effect. -/
def CycleEffect.apply : CycleEffect → State → State
  | .goes b, s => { s with bus := b }
  | .fails c b, s => failAttempt c { s with bus := b }
  | .relays, s => respond .cp .ok (xcvInfo s.bus s.bus.rxr) { s with bus := { s.bus with fsm := .idle } }

/-- One more cycle counted (10_state.md R33). -/
def countCycle (b : Bus) : Bus := { b with tcnt := b.tcnt + 1 }

/-- The exits of the state table's rows, with line `rdy` and data bus `d` in registers `b`: the draws the peer makes in
the cycle, and the effect (R214 to R224, R240). -/
inductive Row (p : Params) (rdy : Bool) (d : Byte) (b : Bus) : List Draw → CycleEffect → Prop
  | idle : b.fsm = .idle → Row p rdy d b [] (.goes (idleLines b))
  | ready : b.fsm = .chkrdy → rdy = true → Row p rdy d b [.ready true] (.goes (driveOrTurn 0 b))
  | notReady : b.fsm = .chkrdy → rdy = false → Row p rdy d b [.ready false] (.fails .peerNotReady b)
  | counts {n : Nat} : stateCycles p b.fsm = some n → b.fsm ≠ .gap → waitSeen b.fsm rdy ≠ some true → b.tcnt + 1 < n →
      Row p rdy d b [] (.goes (countCycle b))
  | timesOut : waitSeen b.fsm rdy = some false → p.fClk ≤ b.tcnt + 1 →
      Row p rdy d b [.wait false] (.fails .transportTimeout (countCycle b))
  | driven : b.fsm = .sDrive → p.setupCycles ≤ b.tcnt + 1 →
      Row p rdy d b [] (.goes { countCycle b with fsm := .sStrobe, clkO := false })
  | strobed : b.fsm = .sStrobe → Row p rdy d b [] (.goes { b with fsm := .sWack, tcnt := 0 })
  | acked : b.fsm = .sWack → rdy = false →
      Row p rdy d b [.wait true] (.goes { b with fsm := .sWrel, clkO := true, tcnt := 0 })
  | released : b.fsm = .sWrel → rdy = true →
      Row p rdy d b [.wait true] (.goes (driveOrTurn (b.idx + 1) { countCycle b with idx := b.idx + 1 }))
  | turned : b.fsm = .sTurn → Row p rdy d b [] (.goes { b with fsm := .rWstb, tcnt := 0 })
  | sampled : b.fsm = .rWstb → rdy = false →
      Row p rdy d b [.wait true, .sample d]
        (.goes { b with fsm := .rAck, rxr := b.rxr ++ [d], clkO := false, tcnt := 0 })
  | pulsed : b.fsm = .rAck → p.ackPulseCycles ≤ b.tcnt + 1 →
      Row p rdy d b [] (.goes { b with fsm := .rWrel, clkO := true, tcnt := 0 })
  | received : b.fsm = .rWrel → rdy = true → replyDone p b.rxr = true →
      Row p rdy d b [.wait true] (.goes { countCycle b with fsm := .eval })
  | nextByte : b.fsm = .rWrel → rdy = true → replyDone p b.rxr = false →
      Row p rdy d b [.wait true] (.goes { b with fsm := .rWstb, tcnt := 0 })
  | relayed : b.fsm = .eval → judgeReply b.rxr = .reply b.rxr → Row p rdy d b [] .relays
  | rejected {c : Status} : b.fsm = .eval → judgeReply b.rxr = .failed c → Row p rdy d b [] (.fails c b)
  | gapCounts : b.fsm = .gap → b.tcnt + 1 < p.retryGapCycles → Row p rdy d b [] (.goes (idleLines (countCycle b)))
  | gapEnds : b.fsm = .gap → p.retryGapCycles ≤ b.tcnt + 1 →
      Row p rdy d b [] (.goes { idleLines (countCycle b) with fsm := .chkrdy })

/-! ### Cycles and rows -/

theorem waitSample_true (onSeen : Bus → Bus) (s : State) :
    waitSample true onSeen s = { s with bus := onSeen (countCycle s.bus) } := rfl

theorem waitSample_timesOut {s : State} (h : s.params.fClk ≤ s.bus.tcnt + 1) (onSeen : Bus → Bus) :
    waitSample false onSeen s = failAttempt .transportTimeout { s with bus := countCycle s.bus } := by
  rw [← timeoutCycles_eq] at h
  simp [waitSample, h, countCycle]

theorem waitSample_counts {s : State} (h : s.bus.tcnt + 1 < s.params.fClk) (onSeen : Bus → Bus) :
    waitSample false onSeen s = { s with bus := countCycle s.bus } := by
  rw [← timeoutCycles_eq] at h
  simp [waitSample, Nat.not_le.mpr h, countCycle]

theorem holdCycles_ends {n : Nat} {s : State} (h : n ≤ s.bus.tcnt + 1) (leave : Bus → Bus) :
    holdCycles n leave s = { s with bus := leave (countCycle s.bus) } := by simp [holdCycles, h, countCycle]

theorem holdCycles_counts {n : Nat} {s : State} (h : s.bus.tcnt + 1 < n) (leave : Bus → Bus) :
    holdCycles n leave s = { s with bus := countCycle s.bus } := by simp [holdCycles, Nat.not_le.mpr h, countCycle]

/-- The waits are the states that last T samples at most (R214). -/
theorem stateCycles_of_wait {p : Params} {f : Fsm} {rdy seen : Bool} (h : waitSeen f rdy = some seen) :
    stateCycles p f = some p.fClk := by
  cases f with
  | sWack | sWrel | rWstb | rWrel => rfl
  | _ => cases h

theorem judgeReply_eq_reply_iff {z z' : List Byte} :
    judgeReply z = .reply z' ↔ z' = z ∧ ∃ s e a node span, validateBytes z = .ok s e a node span := by
  cases h : validateBytes z <;> simp [judgeReply, h, eq_comm]

theorem judgeReply_eq_failed_iff {z : List Byte} {c : Status} :
    judgeReply z = .failed c ↔
      validateBytes z = .needMore ∧ c = .needMoreData ∨
      (∃ s e kc kr, validateBytes z = .csum s e kc kr) ∧ c = .checksumMismatch := by
  cases h : validateBytes z <;> simp [judgeReply, h, eq_comm]

/-- A cycle does what its row says. -/
theorem Row.busCycle_eq {s : State} {rdy : Bool} {d : Byte} {ds : List Draw} {e : CycleEffect}
    (h : Row s.params rdy d s.bus ds e) : busCycle rdy d s = e.apply s := by
  cases h with
  | idle hfsm => rw [busCycle, hfsm]; rfl
  | ready hfsm hrdy => rw [busCycle, hfsm, hrdy]; rfl
  | notReady hfsm hrdy => rw [busCycle, hfsm, hrdy]; rfl
  | counts hn hgap hseen hlt =>
    cases hwait : waitSeen s.bus.fsm rdy with
    | some seen =>
      obtain rfl : seen = false := Bool.eq_false_iff.mpr fun h => hseen (h ▸ hwait)
      obtain rfl := Option.some.inj ((stateCycles_of_wait hwait).symm.trans hn)
      obtain ⟨onSeen, hcycle⟩ := busCycle_of_wait hwait d
      exact hcycle.trans (waitSample_counts hlt onSeen)
    | none =>
      cases hfsm : s.bus.fsm with
      | sDrive | rAck =>
        rw [hfsm] at hn
        cases hn
        rw [busCycle, hfsm]
        exact holdCycles_counts hlt _
      | sWack | sWrel | rWstb | rWrel => rw [hfsm] at hwait; cases hwait
      | gap => exact absurd hfsm hgap
      | idle | chkrdy | sStrobe | sTurn | eval => rw [hfsm] at hn; cases hn
  | timesOut hseen hle =>
    obtain ⟨onSeen, hcycle⟩ := busCycle_of_wait hseen d
    exact hcycle.trans (waitSample_timesOut hle onSeen)
  | driven hfsm hle => rw [busCycle, hfsm]; exact holdCycles_ends hle _
  | strobed hfsm => rw [busCycle, hfsm]; rfl
  | acked hfsm hrdy => rw [busCycle, hfsm, hrdy]; rfl
  | released hfsm hrdy => rw [busCycle, hfsm, hrdy]; rfl
  | turned hfsm => rw [busCycle, hfsm]; rfl
  | sampled hfsm hrdy => rw [busCycle, hfsm, hrdy]; rfl
  | pulsed hfsm hle => rw [busCycle, hfsm]; exact holdCycles_ends hle _
  | received hfsm hrdy hdone =>
    rw [busCycle, hfsm, hrdy]
    exact (waitSample_true ..).trans (by simp [countCycle, hdone, CycleEffect.apply])
  | nextByte hfsm hrdy hdone =>
    rw [busCycle, hfsm, hrdy]
    exact (waitSample_true ..).trans (by simp [countCycle, hdone, CycleEffect.apply, enterWait])
  | relayed hfsm hjudge =>
    obtain ⟨-, _, _, _, _, _, hverdict⟩ := judgeReply_eq_reply_iff.mp hjudge
    rw [busCycle, hfsm]
    simp [checkReply, hverdict, CycleEffect.apply]
  | rejected hfsm hjudge =>
    rw [busCycle, hfsm]
    rcases judgeReply_eq_failed_iff.mp hjudge with ⟨hverdict, rfl⟩ | ⟨⟨_, _, _, _, hverdict⟩, rfl⟩ <;>
      simp [checkReply, hverdict, CycleEffect.apply]
  | gapCounts hfsm hlt =>
    rw [busCycle, hfsm]
    exact holdCycles_counts (s := { s with bus := idleLines s.bus }) hlt _
  | gapEnds hfsm hle =>
    rw [busCycle, hfsm]
    exact holdCycles_ends (s := { s with bus := idleLines s.bus }) hle _

/-- A sample of a wait without its condition counts or times out (R214). -/
theorem exists_row_of_unseen {p : Params} {rdy : Bool} {b : Bus} (hseen : waitSeen b.fsm rdy = some false) (d : Byte) :
    ∃ ds e, Row p rdy d b ds e := by
  rcases Nat.lt_or_ge (b.tcnt + 1) p.fClk with hlt | hle
  · have hgap : b.fsm ≠ .gap := fun h => by rw [h] at hseen; cases hseen
    exact ⟨_, _, .counts (stateCycles_of_wait hseen) hgap (by simp [hseen]) hlt⟩
  · exact ⟨_, _, .timesOut hseen hle⟩

/-- Every cycle has a row. -/
theorem exists_row (p : Params) (rdy : Bool) (d : Byte) (b : Bus) : ∃ ds e, Row p rdy d b ds e := by
  cases hfsm : b.fsm with
  | idle => exact ⟨_, _, .idle hfsm⟩
  | chkrdy =>
    cases rdy with
    | true => exact ⟨_, _, .ready hfsm rfl⟩
    | false => exact ⟨_, _, .notReady hfsm rfl⟩
  | sDrive =>
    rcases Nat.lt_or_ge (b.tcnt + 1) p.setupCycles with hlt | hle
    · exact ⟨_, _, .counts (by rw [hfsm]; rfl) (by simp [hfsm]) (by simp [hfsm, waitSeen]) hlt⟩
    · exact ⟨_, _, .driven hfsm hle⟩
  | sStrobe => exact ⟨_, _, .strobed hfsm⟩
  | sWack =>
    cases rdy with
    | true => exact exists_row_of_unseen (by rw [hfsm]; rfl) d
    | false => exact ⟨_, _, .acked hfsm rfl⟩
  | sWrel =>
    cases rdy with
    | true => exact ⟨_, _, .released hfsm rfl⟩
    | false => exact exists_row_of_unseen (by rw [hfsm]; rfl) d
  | sTurn => exact ⟨_, _, .turned hfsm⟩
  | rWstb =>
    cases rdy with
    | true => exact exists_row_of_unseen (by rw [hfsm]; rfl) d
    | false => exact ⟨_, _, .sampled hfsm rfl⟩
  | rAck =>
    rcases Nat.lt_or_ge (b.tcnt + 1) p.ackPulseCycles with hlt | hle
    · exact ⟨_, _, .counts (by rw [hfsm]; rfl) (by simp [hfsm]) (by simp [hfsm, waitSeen]) hlt⟩
    · exact ⟨_, _, .pulsed hfsm hle⟩
  | rWrel =>
    cases rdy with
    | true =>
      cases hdone : replyDone p b.rxr with
      | true => exact ⟨_, _, .received hfsm rfl hdone⟩
      | false => exact ⟨_, _, .nextByte hfsm rfl hdone⟩
    | false => exact exists_row_of_unseen (by rw [hfsm]; rfl) d
  | eval =>
    cases hjudge : judgeReply b.rxr with
    | reply z =>
      obtain ⟨rfl, -⟩ := judgeReply_eq_reply_iff.mp hjudge
      exact ⟨_, _, .relayed hfsm hjudge⟩
    | failed c => exact ⟨_, _, .rejected hfsm hjudge⟩
  | gap =>
    rcases Nat.lt_or_ge (b.tcnt + 1) p.retryGapCycles with hlt | hle
    · exact ⟨_, _, .gapCounts hfsm hlt⟩
    · exact ⟨_, _, .gapEnds hfsm hle⟩

/-- Everything a cycle can do: it has a row and does what that says. -/
theorem busCycle_row (rdy : Bool) (d : Byte) (s : State) :
    ∃ ds e, Row s.params rdy d s.bus ds e ∧ busCycle rdy d s = e.apply s := by
  obtain ⟨ds, e, hrow⟩ := exists_row s.params rdy d s.bus
  exact ⟨ds, e, hrow, hrow.busCycle_eq⟩

/-! ### The state table's statements -/

theorem exec_xcv (f : List Byte) (s : State) :
    exec (.xcv f) s = .next { s with bus := { s.bus with fsm := .chkrdy, txf := f, att := 1, cause := 0x00 } } := rfl

/-- Settles O39: the step of the request is one update of the registers. -/
theorem xcvStartsTheTransfer : Obligations.XcvStartsTheTransfer := by
  unfold Obligations.XcvStartsTheTransfer
  exact fun f s => ⟨rfl, rfl, exec_xcv f s⟩

/-- Settles O40: each clause is a row. -/
theorem sendRowsOfTheStateTable : Obligations.SendRowsOfTheStateTable := by
  unfold Obligations.SendRowsOfTheStateTable
  intro s rdy d
  refine ⟨fun hfsm => (Row.idle hfsm).busCycle_eq, fun f _ => exec_xcv f s,
    fun hfsm hrdy => (Row.notReady hfsm hrdy).busCycle_eq, fun hfsm hrdy htxf => ?_, fun c f hfsm hrdy htxf => ?_,
    fun hfsm hlt => ?_, fun hfsm hle => (Row.driven hfsm hle).busCycle_eq, fun hfsm => (Row.strobed hfsm).busCycle_eq,
    fun hfsm hrdy => (Row.acked hfsm hrdy).busCycle_eq, fun hfsm hrdy hlt => ?_, fun hfsm hrdy hle => ?_,
    fun c hfsm hrdy htxf => ?_, fun hfsm hrdy hend => ?_, fun hfsm hrdy hlt => ?_, fun hfsm hrdy hle => ?_,
    fun hfsm => (Row.turned hfsm).busCycle_eq, fun hfsm hlt => (Row.gapCounts hfsm hlt).busCycle_eq,
    fun hfsm hle => (Row.gapEnds hfsm hle).busCycle_eq⟩
  · rw [(Row.ready hfsm hrdy).busCycle_eq, driveOrTurn_none (by rw [htxf]; rfl)]
    rfl
  · rw [(Row.ready hfsm hrdy).busCycle_eq, driveOrTurn_some (c := c) (by rw [htxf]; rfl)]
    rfl
  · exact (Row.counts (by rw [hfsm]; rfl) (by simp [hfsm]) (by simp [hfsm, waitSeen]) hlt).busCycle_eq
  · exact (Row.counts (by rw [hfsm]; rfl) (by simp [hfsm]) (by simp [hfsm, hrdy, waitSeen]) hlt).busCycle_eq
  · exact (Row.timesOut (by rw [hfsm, hrdy]; rfl) hle).busCycle_eq
  · rw [(Row.released hfsm hrdy).busCycle_eq,
      driveOrTurn_some (b := { countCycle s.bus with idx := s.bus.idx + 1 }) (c := c) htxf]
    rfl
  · rw [(Row.released hfsm hrdy).busCycle_eq,
      driveOrTurn_none (b := { countCycle s.bus with idx := s.bus.idx + 1 }) (List.getElem?_eq_none hend.ge)]
    rfl
  · exact (Row.counts (by rw [hfsm]; rfl) (by simp [hfsm]) (by simp [hfsm, hrdy, waitSeen]) hlt).busCycle_eq
  · exact (Row.timesOut (by rw [hfsm, hrdy]; rfl) hle).busCycle_eq

theorem replyDone_iff {p : Params} {rxr : List Byte} :
    replyDone p rxr = true ↔ rxr.getLast? = some 0x03 ∨ p.maxFrame ≤ rxr.length := by
  simp [replyDone, Config.etx]

/-- Settles O41: each clause is a row. -/
theorem receiveRowsOfTheStateTable : Obligations.ReceiveRowsOfTheStateTable := by
  unfold Obligations.ReceiveRowsOfTheStateTable
  intro s rdy d
  refine ⟨fun hfsm hrdy => (Row.sampled hfsm hrdy).busCycle_eq, fun hfsm hrdy hlt => ?_, fun hfsm hrdy hle => ?_,
    fun hfsm hlt => ?_, fun hfsm hle => (Row.pulsed hfsm hle).busCycle_eq, fun hfsm hrdy hdone => ?_,
    fun hfsm hrdy hlast hlt => ?_, fun hfsm hrdy hlt => ?_, fun hfsm hrdy hle => ?_,
    fun st e a node span hfsm hverdict => ?_, fun hfsm hverdict => ?_, fun st e kc kr hfsm hverdict => ?_⟩
  · exact (Row.counts (by rw [hfsm]; rfl) (by simp [hfsm]) (by simp [hfsm, hrdy, waitSeen]) hlt).busCycle_eq
  · exact (Row.timesOut (by rw [hfsm, hrdy]; rfl) hle).busCycle_eq
  · exact (Row.counts (by rw [hfsm]; rfl) (by simp [hfsm]) (by simp [hfsm, waitSeen]) hlt).busCycle_eq
  · exact (Row.received hfsm hrdy (replyDone_iff.mpr (hdone.imp_right Eq.ge))).busCycle_eq
  · have hmore : replyDone s.params s.bus.rxr = false := Bool.eq_false_iff.mpr fun h =>
      (replyDone_iff.mp h).elim hlast (Nat.not_le.mpr hlt)
    exact (Row.nextByte hfsm hrdy hmore).busCycle_eq
  · exact (Row.counts (by rw [hfsm]; rfl) (by simp [hfsm]) (by simp [hfsm, hrdy, waitSeen]) hlt).busCycle_eq
  · exact (Row.timesOut (by rw [hfsm, hrdy]; rfl) hle).busCycle_eq
  · exact (Row.relayed hfsm (judgeReply_eq_reply_iff.mpr ⟨rfl, _, _, _, _, _, hverdict⟩)).busCycle_eq
  · exact (Row.rejected hfsm (judgeReply_eq_failed_iff.mpr (.inl ⟨hverdict, rfl⟩))).busCycle_eq
  · exact (Row.rejected hfsm (judgeReply_eq_failed_iff.mpr (.inr ⟨⟨_, _, _, _, hverdict⟩, rfl⟩))).busCycle_eq

/-- Settles O42: the attempt is before the last or the last (`failAttempt_retry`, `failAttempt_last`). -/
theorem failureAction : Obligations.FailureAction := by
  unfold Obligations.FailureAction
  intro c s cnt
  have hlog : logFailure c s = { s with timeoutCnt := cnt } := by
    unfold logFailure cnt
    split
    · rw [← satIncr_eq]; rfl
    · rfl
  refine ⟨fun hatt => ?_, fun hatt => ?_⟩
  · rw [failAttempt_retry hatt, hlog]
  · have hlast : s.bus.att.setWidth 8 = 3 := BitVec.eq_of_toNat_eq (by simp [hatt])
    rw [failAttempt_last (by omega), hlog, hlast]

/-- Settles O44: the rows of the other states do not read the line, and those with the line released do not read the
data bus. -/
theorem unsampledInputsHaveNoEffect : Obligations.UnsampledInputsHaveNoEffect := by
  unfold Obligations.UnsampledInputsHaveNoEffect
  intro s r1 r2 d1 d2
  cases hfsm : s.bus.fsm with
  | chkrdy | sWack | sWrel | rWrel => exact ⟨fun h => absurd h (by decide), fun _ => by rw [busCycle, busCycle, hfsm]⟩
  | rWstb =>
    refine ⟨fun h => absurd h (by decide), fun h => ?_⟩
    obtain rfl : r1 = true := h.resolve_left fun h => h rfl
    rw [busCycle, busCycle, hfsm]
    rfl
  | idle | sDrive | sStrobe | sTurn | rAck | eval | gap =>
    exact ⟨fun _ => by rw [busCycle, busCycle, hfsm], fun _ => by rw [busCycle, busCycle, hfsm]⟩

end Sys2Proof.Machine

/-! What an operation may change (20_memory.md R61; 40_ring_buffer.md R121; 42_framer.md R166): every operation that
completes answers on its own port after one update of the part it owns, or starts a transfer. -/

namespace Sys2Proof.Machine

/-- What an operation that completes did: it answered on its port and changed nothing else, or one part of the state
before it answered, or it started a transfer. -/
inductive OpEffect (s : State) : Instr → State → Prop
  | answers (i : Instr) (st : Status) (info : List Byte) : OpEffect s i (respond i.port st info s)
  | stores (b : Byte) : OpEffect s (.rbwr b) (respond .wp .ok [] (stored b s))
  | drains (xs : List Byte) (o : Byte) : OpEffect s .rbdrain (respond .cp .ok (lenList xs) { s with outPtr := o })
  | pushes (xs : List Byte) (st : Status) (info fb : List Byte) :
      OpEffect s (.fbpush xs) (respond .cp st info { s with fbuf := fb })
  | consumes (st : Status) (info fb : List Byte) (c : BitVec 16) :
      OpEffect s .validate (respond .cp st info { s with fbuf := fb, csumErrCnt := c })
  | clears : OpEffect s .fbclear (respond .cp .ok [] { s with fbuf := [] })
  | starts (f : List Byte) :
      OpEffect s (.xcv f) { s with bus := { s.bus with fsm := .chkrdy, txf := f, att := 1, cause := 0x00 } }

theorem execRbwr_effect {b : Byte} {s t : State} (h : execRbwr b s = .next t) : OpEffect s (.rbwr b) t := by
  unfold execRbwr at h
  split at h
  · cases h; exact .answers (.rbwr b) .full []
  · split at h
    · cases h
    · next s' hw =>
      obtain ⟨-, rfl⟩ := memWrite_ok.mp hw
      cases h
      exact .stores b

theorem execRbdrain_effect {s t : State} (h : execRbdrain s = .next t) : OpEffect s .rbdrain t := by
  unfold execRbdrain at h
  split at h
  · cases h
  · cases h; exact .drains ..

theorem execValidate_effect {s t : State} (h : execValidate s = .next t) : OpEffect s .validate t := by
  unfold execValidate at h
  split at h
  · cases h; exact .answers .validate .needMoreData []
  · cases h; exact .consumes ..
  · cases h; exact .consumes ..

theorem execBdata_effect {xs : List Byte} {s t : State} (h : execBdata xs s = .next t) : OpEffect s (.bdata xs) t := by
  unfold execBdata at h
  split at h
  · cases h; exact .answers (.bdata xs) .tooLong []
  · cases h; exact .answers (.bdata xs) ..

/-- Everything an operation can do. -/
theorem exec_effect {i : Instr} {s t : State} (h : exec i s = .next t) : OpEffect s i t := by
  cases i with
  | rbwr b => exact execRbwr_effect h
  | rbdrain => exact execRbdrain_effect h
  | validate => exact execValidate_effect h
  | bdata xs => exact execBdata_effect h
  | rbstat => cases h; exact .answers .rbstat ..
  | enc v => cases h; exact .answers (.enc v) ..
  | dec d0 d1 d2 d3 d4 => cases h; exact .answers (.dec d0 d1 d2 d3 d4) ..
  | bval v => cases h; exact .answers (.bval v) ..
  | stat => cases h; exact .answers .stat ..
  | fbpush xs => cases h; exact .pushes ..
  | fbclear => cases h; exact .clears
  | xcv f => cases h; exact .starts f

theorem respond_port_of_ne {p q : PortId} (h : q ≠ p) (st : Status) (info : List Byte) (s : State) :
    (respond p st info s).port q = s.port q := by
  cases p <;> cases q <;> trivial

theorem respond_port_self (p : PortId) (st : Status) (info : List Byte) (s : State) :
    (respond p st info s).port p = { s.port p with rsp := statusCode st :: info } := by cases p <;> rfl

/-- A response changes the serialiser of its port only. -/
theorem respond_port (p q : PortId) (st : Status) (info : List Byte) (s : State) :
    (respond p st info s).port q = { s.port q with rsp := ((respond p st info s).port q).rsp } := by
  by_cases h : q = p
  · subst h; rw [respond_port_self]
  · rw [respond_port_of_ne h]

/-- Settles O11: the effects of `exec_effect` one by one. -/
theorem operationsTouchOnlyTheirState : Obligations.OperationsTouchOnlyTheirState := by
  unfold Obligations.OperationsTouchOnlyTheirState
  intro i s t h
  cases exec_effect h with
  | answers i st info =>
    refine ⟨by simp, by simp, by simp, fun hi => ⟨by simp, by simp, ?_⟩, by simp, by simp, by simp, by simp,
      fun p => respond_port .., fun p hp => respond_port_of_ne hp ..⟩
    cases i with
    | rbwr b => exact absurd rfl (hi b)
    | _ => rfl
  | stores b =>
    exact ⟨rfl, rfl, rfl, fun hi => absurd rfl (hi b), fun _ => rfl, fun _ _ _ => rfl, fun _ => rfl, fun _ => rfl,
      respond_port .wp (s := stored b s) (st := .ok) (info := []), fun p hp => respond_port_of_ne hp ..⟩
  | drains xs o =>
    exact ⟨rfl, rfl, rfl, fun _ => ⟨rfl, rfl, rfl⟩, fun hi => absurd rfl hi, fun _ _ _ => rfl, fun _ => rfl,
      fun _ => rfl, fun p => respond_port .., fun p hp => respond_port_of_ne hp ..⟩
  | pushes xs st info fb =>
    exact ⟨rfl, rfl, rfl, fun _ => ⟨rfl, rfl, rfl⟩, fun _ => rfl, fun hi => absurd rfl (hi xs), fun _ => rfl,
      fun _ => rfl, fun p => respond_port .., fun p hp => respond_port_of_ne hp ..⟩
  | consumes st info fb c =>
    exact ⟨rfl, rfl, rfl, fun _ => ⟨rfl, rfl, rfl⟩, fun _ => rfl, fun _ hi => absurd rfl hi, fun hi => absurd rfl hi,
      fun _ => rfl, fun p => respond_port .., fun p hp => respond_port_of_ne hp ..⟩
  | clears =>
    exact ⟨rfl, rfl, rfl, fun _ => ⟨rfl, rfl, rfl⟩, fun _ => rfl, fun _ _ hi => absurd rfl hi, fun _ => rfl,
      fun _ => rfl, fun p => respond_port .., fun p hp => respond_port_of_ne hp ..⟩
  | starts f =>
    exact ⟨rfl, rfl, rfl, fun _ => ⟨rfl, rfl, rfl⟩, fun _ => rfl, fun _ _ _ => rfl, fun _ => rfl,
      fun hi => absurd rfl (hi f), fun p => by cases p <;> rfl, fun p _ => by cases p <;> rfl⟩

theorem exec_params {i : Instr} {s t : State} (h : exec i s = .next t) : t.params = s.params :=
  (operationsTouchOnlyTheirState i s t h).1

end Sys2Proof.Machine

/-! Runs of the bus controller beside the rest of the block (44_bus_transport.md R214, R235): a cycle reads and writes the
controller's own part only, so it commutes with whatever the write port does; and a wait ends within T samples. -/

namespace Sys2Proof.Machine

/-! ### The controller's own part of the state -/

/-- The state `t` with the bus controller's part of `r`: its registers, `timeout_cnt` and the command port's serialiser
(R235). -/
def withBus (r t : State) : State :=
  { t with bus := r.bus, timeoutCnt := r.timeoutCnt, cp := { t.cp with rsp := r.cp.rsp } }

@[simp] theorem withBus_self (s : State) : withBus s s = s := rfl

theorem failAttempt_withBus (c : Status) (r t : State) : failAttempt c (withBus r t) = withBus (failAttempt c r) t := by
  have hlog : logFailure c (withBus r t) = withBus (logFailure c r) t := by unfold logFailure; split <;> rfl
  by_cases h : r.bus.att.toNat < 3
  · rw [failAttempt_retry h, failAttempt_retry (s := withBus r t) h, hlog]
    unfold logFailure
    split <;> rfl
  · rw [failAttempt_last h, failAttempt_last (s := withBus r t) h, hlog]
    unfold logFailure
    split <;> rfl

theorem CycleEffect.apply_withBus (e : CycleEffect) (r t : State) : e.apply (withBus r t) = withBus (e.apply r) t := by
  cases e with
  | goes b => rfl
  | fails c b => exact failAttempt_withBus c { r with bus := b } t
  | relays => rfl

/-- A cycle of the bus controller acts on its own part, whatever the rest of the state is. -/
theorem busCycle_withBus {r t : State} (hparams : t.params = r.params) (rdy : Bool) (d : Byte) :
    busCycle rdy d (withBus r t) = withBus (busCycle rdy d r) t := by
  obtain ⟨ds, e, hrow, hcycle⟩ := busCycle_row rdy d r
  rw [hcycle, Row.busCycle_eq (s := withBus r t) (hparams ▸ hrow), CycleEffect.apply_withBus]

theorem busCycle_eq_withBus (rdy : Bool) (d : Byte) (s : State) : busCycle rdy d s = withBus (busCycle rdy d s) s :=
  busCycle_withBus (r := s) (t := s) rfl rdy d

theorem busCycle_params (rdy : Bool) (d : Byte) (s : State) : (busCycle rdy d s).params = s.params := by
  rw [busCycle_eq_withBus]; rfl

/-- Settles O46: each cycle acts on the controller's part only (`busCycle_eq_withBus`), by induction on the run. -/
theorem busRunFrame : Obligations.BusRunFrame := by
  unfold Obligations.BusRunFrame
  intro zs s
  suffices h : busRun zs s = withBus (busRun zs s) s from h
  induction zs generalizing s with
  | nil => rfl
  | cons z zs ih =>
    calc busRun (z :: zs) s
        = withBus (busRun zs (busCycle z.1 z.2 s)) (busCycle z.1 z.2 s) := ih _
      _ = withBus (busRun zs (busCycle z.1 z.2 s)) (withBus (busCycle z.1 z.2 s) s) :=
          congrArg (withBus _) (busCycle_eq_withBus ..)
      _ = withBus (busRun (z :: zs) s) s := rfl

/-! ### The write port beside the controller -/

/-- What comes next of a state, stops left as they are. -/
def mapNext (f : State → State) : Outcome → Outcome
  | .next s => .next (f s)
  | .fault r => .fault r
  | .refused r => .refused r

/-- The state `t` with the bus controller's part of `r` and the coming events `evs`. -/
def besideWp (r : State) (evs : List Event) (t : State) : State := { withBus r t with env := evs }

theorem execRbwr_besideWp (b : Byte) (r : State) (evs : List Event) (t : State) :
    execRbwr b (besideWp r evs t) = mapNext (besideWp r evs) (execRbwr b t) := by
  have hfull : ringFull (besideWp r evs t) = ringFull t := rfl
  have hptr : (besideWp r evs t).inPtr = t.inPtr := rfl
  unfold execRbwr
  rw [hfull, hptr]
  split
  · rfl
  · by_cases hslot : t.inPtr.toNat < t.params.ringN
    · rw [memWrite_of_lt b hslot, memWrite_of_lt (s := besideWp r evs t) b hslot]
      rfl
    · simp [memWrite, hslot, besideWp, withBus, mapNext]

/-- A request byte on the write port neither reads nor writes the controller's part. -/
theorem requestByte_wp_besideWp (r : State) (evs : List Event) (t : State) :
    requestByte .wp (besideWp r evs t) = mapNext (besideWp r evs) (requestByte .wp t) := by
  have hport : (besideWp r evs t).port .wp = t.port .wp := rfl
  unfold requestByte fetch
  rw [hport]
  cases (t.port .wp).accept with
  | none => rfl
  | some bq =>
    obtain ⟨b, q⟩ := bq
    cases hdec : decode .wp (q.dec ++ [b]) with
    | error e => cases e <;> simp only [hdec] <;> rfl
    | ok r' =>
      obtain ⟨i, rest⟩ := r'
      obtain ⟨x, rfl⟩ := decode_wp_ok hdec
      simp only [hdec]
      exact execRbwr_besideWp x r evs (t.setPort .wp { q with dec := rest, busy := true })

theorem requestByte_params {p : PortId} {s t : State} (h : requestByte p s = .next t) : t.params = s.params := by
  unfold requestByte at h
  rcases fetch_cases p s with ⟨-, hf⟩ | ⟨b, q, -, ⟨i, rest, -, hf⟩ | ⟨-, hf⟩ | ⟨op, -, hf⟩⟩ <;> rw [hf] at h
  · cases h; rfl
  · rw [exec_params h, setPort_params]
  · cases h; exact setPort_params ..
  · cases h; exact (respond_params ..).trans (setPort_params ..)

theorem runSteps_two {s t : State} (h : step s = .next t) : runSteps 2 s = step t :=
  runSteps_last ((runSteps_last rfl).trans h)

/-- Settles O17: a write-port byte changes nothing of the controller's part and reads nothing of it
(`requestByte_wp_besideWp`), and a cycle acts on that part alone (`busCycle_withBus`). -/
theorem writePortCommutesWithBus : Obligations.WritePortCommutesWithBus := by
  unfold Obligations.WritePortCommutesWithBus
  intro s evs rdy d
  have hbyteFirst : step { s with env := .wpReq :: .clk rdy d :: evs } =
      mapNext (besideWp s (.clk rdy d :: evs)) (requestByte .wp s) :=
    requestByte_wp_besideWp s (.clk rdy d :: evs) s
  have hcycleFirst : step { s with env := .clk rdy d :: .wpReq :: evs } =
      .next (besideWp (busCycle rdy d s) (.wpReq :: evs) s) :=
    congrArg Host.Outcome.next (busCycle_withBus (r := s) (t := { s with env := .wpReq :: evs }) rfl rdy d)
  have hbyteSecond : step (besideWp (busCycle rdy d s) (.wpReq :: evs) s) =
      mapNext (besideWp (busCycle rdy d s) evs) (requestByte .wp s) :=
    requestByte_wp_besideWp (busCycle rdy d s) evs s
  rw [runSteps_two hcycleFirst, hbyteSecond]
  cases hbyte : requestByte .wp s with
  | next t =>
    rw [hbyte] at hbyteFirst
    have hcycleSecond : step (besideWp s (.clk rdy d :: evs) t) = .next (besideWp (busCycle rdy d s) evs t) :=
      congrArg Host.Outcome.next
        (busCycle_withBus (r := s) (t := { t with env := evs }) (requestByte_params (t := t) hbyte) rdy d)
    rw [runSteps_two hbyteFirst, hcycleSecond]
    rfl
  | fault f => rw [hbyte] at hbyteFirst; rw [runSteps, hbyteFirst]; rfl
  | refused f => rw [hbyte] at hbyteFirst; rw [runSteps, hbyteFirst]; rfl

/-! ### Waits -/

/-- A wait whose condition has not come only counts its samples (R214). -/
theorem busRun_wait_counts {s : State} {zs : List (Bool × Byte)}
    (hwait : ∀ z ∈ zs, waitSeen s.bus.fsm z.1 = some false) (hlt : s.bus.tcnt + zs.length < s.params.fClk) :
    busRun zs s = atCount (s.bus.tcnt + zs.length) s := by
  induction zs generalizing s with
  | nil => rfl
  | cons z zs ih =>
    obtain ⟨hz, hzs⟩ := List.forall_mem_cons.mp hwait
    rw [List.length_cons] at hlt
    have hgap : s.bus.fsm ≠ .gap := fun h => by rw [h] at hz; cases hz
    have hcycle : busCycle z.1 z.2 s = atCount (s.bus.tcnt + 1) s :=
      (Row.counts (stateCycles_of_wait hz) hgap (by simp [hz]) (by omega)).busCycle_eq
    rw [busRun_cons, hcycle, ih (s := atCount (s.bus.tcnt + 1) s) hzs (by simp only [atCount]; omega), List.length_cons,
      ← Nat.add_assoc, Nat.add_right_comm]
    rfl

/-- A frame goes on with its next byte or is at its end. -/
theorem driveOrTurn_fsm (k : Nat) (b : Bus) : (driveOrTurn k b).fsm = .sDrive ∨ (driveOrTurn k b).fsm = .sTurn := by
  cases h : b.txf[k]? with
  | none => rw [driveOrTurn_none h]; exact .inr rfl
  | some c => rw [driveOrTurn_some h]; exact .inl rfl

theorem driveOrTurn_att (k : Nat) (b : Bus) : (driveOrTurn k b).att = b.att := by
  cases h : b.txf[k]? with
  | none => rw [driveOrTurn_none h]
  | some c => rw [driveOrTurn_some h]

/-- The condition of a wait ends it, and the attempt goes on with nothing counted (R214). -/
theorem busCycle_wait_seen {s : State} {rdy : Bool} (hseen : waitSeen s.bus.fsm rdy = some true) (d : Byte) :
    (busCycle rdy d s).bus.fsm ≠ s.bus.fsm ∧ (busCycle rdy d s).bus.att = s.bus.att ∧
      (busCycle rdy d s).timeoutCnt = s.timeoutCnt := by
  cases hfsm : s.bus.fsm with
  | sWack =>
    have hrdy : rdy = false := by simpa [hfsm, waitSeen] using hseen
    rw [(Row.acked hfsm hrdy).busCycle_eq]
    exact ⟨fun h => (by decide : Fsm.sWrel ≠ .sWack) h, rfl, rfl⟩
  | sWrel =>
    have hrdy : rdy = true := by simpa [hfsm, waitSeen] using hseen
    rw [(Row.released hfsm hrdy).busCycle_eq]
    refine ⟨fun h => ?_, driveOrTurn_att .., rfl⟩
    rcases driveOrTurn_fsm (s.bus.idx + 1) { countCycle s.bus with idx := s.bus.idx + 1 } with hf | hf <;>
      exact absurd (hf.symm.trans h) (by decide)
  | rWstb =>
    have hrdy : rdy = false := by simpa [hfsm, waitSeen] using hseen
    rw [(Row.sampled hfsm hrdy).busCycle_eq]
    exact ⟨fun h => (by decide : Fsm.rAck ≠ .rWstb) h, rfl, rfl⟩
  | rWrel =>
    have hrdy : rdy = true := by simpa [hfsm, waitSeen] using hseen
    cases hdone : replyDone s.params s.bus.rxr with
    | true =>
      rw [(Row.received hfsm hrdy hdone).busCycle_eq]
      exact ⟨fun h => (by decide : Fsm.eval ≠ .rWrel) h, rfl, rfl⟩
    | false =>
      rw [(Row.nextByte hfsm hrdy hdone).busCycle_eq]
      exact ⟨fun h => (by decide : Fsm.rWstb ≠ .rWrel) h, rfl, rfl⟩
  | _ => rw [hfsm] at hseen; cases hseen

/-- Settles O43: fewer than T samples only count (`busRun_wait_counts`), a sample with the condition ends the wait
(`busCycle_wait_seen`), and T without it fail the attempt (`busRun_wait_timeout`). -/
theorem waitIsBoundedByT : Obligations.WaitIsBoundedByT := by
  unfold Obligations.WaitIsBoundedByT
  intro s zs htcnt hunseen _
  refine ⟨fun hlt => ?_, fun hlen hne => busRun_wait_timeout hunseen htcnt hne hlen⟩
  have hcount : busRun zs s = atCount zs.length s := by
    rw [busRun_wait_counts hunseen (by omega), htcnt, Nat.zero_add]
  refine ⟨hcount, fun z hz => ?_⟩
  rw [busRun_append, hcount]
  exact busCycle_wait_seen (s := atCount zs.length s) hz z.2

end Sys2Proof.Machine

/-! Responses by the rows of Table E3 (30_encoding.md R86): the twelve operations one by one, and the cycle that ends an
`XCV`. -/

namespace Sys2Proof.Machine

/-! ### The end of a transfer -/

/-- What a cycle of a running transfer, from `s` to `t`, does to the command port's serialiser (R230, R232). -/
inductive TransferStep (s t : State) : Prop
  | runs (fsm : t.bus.fsm ≠ .idle) (rsp : t.cp.rsp = s.cp.rsp)
  | relays (fsm : t.bus.fsm = .idle) (att cause : Byte) (rsp : t.cp.rsp = 0x00 :: att :: cause :: lenList s.bus.rxr)
  | givesUp (fsm : t.bus.fsm = .idle) (att cause : Byte) (rsp : t.cp.rsp = 0x09 :: att :: cause :: lenList [])

@[simp] theorem logFailure_cp (c : Status) (s : State) : (logFailure c s).cp = s.cp := by
  unfold logFailure; split <;> rfl

theorem failAttempt_transferStep (c : Status) (b : Bus) (s : State) :
    TransferStep s (failAttempt c { s with bus := b }) := by
  by_cases hatt : b.att.toNat < 3
  · rw [failAttempt_retry (s := { s with bus := b }) hatt]
    exact .runs (fun h => nomatch h) (by simp)
  · rw [failAttempt_last (s := { s with bus := b }) hatt]
    exact .givesUp rfl _ _ rfl

theorem driveOrTurn_ne_idle (k : Nat) (b : Bus) : (driveOrTurn k b).fsm ≠ .idle := fun h => by
  rcases driveOrTurn_fsm k b with hf | hf <;> exact absurd (hf.symm.trans h) (by decide)

/-- Everything a cycle of a running transfer can do to the command port. -/
theorem busCycle_transferStep {s : State} (hrun : s.bus.fsm ≠ .idle) (rdy : Bool) (d : Byte) :
    TransferStep s (busCycle rdy d s) := by
  obtain ⟨ds, e, hrow, hcycle⟩ := busCycle_row rdy d s
  rw [hcycle]
  cases hrow with
  | idle hfsm => exact absurd hfsm hrun
  | notReady | timesOut | rejected => exact failAttempt_transferStep ..
  | relayed => exact .relays rfl _ _ rfl
  | ready | released => exact .runs (fun h => driveOrTurn_ne_idle _ _ h) rfl
  | counts | gapCounts => exact .runs hrun rfl
  | driven | strobed | acked | turned | sampled | pulsed | received | nextByte | gapEnds =>
    exact .runs (fun h => nomatch h) rfl

/-! ### Fields of a response -/

theorem lenFieldFits_lenList {xs : List Byte} (h : xs.length ≤ 255) : lenFieldFits (lenList xs) = true := by
  simp [lenList, lenFieldFits, lenByte_toNat h]

/-- A span is part of the bytes it was found in (R163). -/
theorem length_span_le {b span : List Byte} {s e : Nat} {a : Byte} {node : Int}
    (h : validateBytes b = .ok s e a node span) : span.length ≤ b.length := by
  cases hscan : scan b with
  | none => rw [validateBytes_eq_needMore_iff.mpr hscan] at h; cases h
  | some se =>
    obtain ⟨s', e'⟩ := se
    rw [validateBytes_of_scan hscan] at h
    split at h
    · cases h
      simp only [slice, List.length_take, List.length_drop]
      omega
    · cases h

theorem decDigits_status (ds : List Byte) :
    (decDigits ds).1 = .ok ∨ (decDigits ds).1 = .noncanonical ∨ (decDigits ds).1 = .badDigit := by
  unfold decDigits
  split
  · split <;> simp
  · simp

/-! ### The operations -/

section Shapes

variable {s t : State}

theorem rbwr_responseFits {b : Byte} (hs : RingInv s) (h : exec (.rbwr b) s = .next t) :
    responseFits (.rbwr b) t.wp.rsp = true := by
  obtain ⟨-, -, hi, -, -⟩ := hs
  cases hfull : ringFull s with
  | true => rw [exec_rbwr_of_full b hfull] at h; cases h; rfl
  | false => rw [exec_rbwr_of_not_full b hi hfull] at h; cases h; rfl

theorem rbdrain_responseFits (hp : s.params.Legal) (hs : RingInv s) (h : exec .rbdrain s = .next t) :
    responseFits .rbdrain t.cp.rsp = true := by
  obtain ⟨hN2, hN256, -⟩ := hp
  obtain ⟨-, -, hi, ho, -⟩ := hs
  have hcount := ringCount_lt (Nat.zero_lt_of_lt hi)
  rw [exec_rbdrain hi ho] at h
  cases h
  exact lenFieldFits_lenList (by rw [length_unreadBytes]; omega)

theorem dec_responseFits {d0 d1 d2 d3 d4 : Byte} (h : exec (.dec d0 d1 d2 d3 d4) s = .next t) :
    responseFits (.dec d0 d1 d2 d3 d4) t.cp.rsp = true := by
  rw [exec_dec] at h
  cases h
  rcases decDigits_status [d0, d1, d2, d3, d4] with hst | hst | hst <;>
    simp only [hst] <;> rfl

theorem fbpush_responseFits {xs : List Byte} (h : exec (.fbpush xs) s = .next t) :
    responseFits (.fbpush xs) t.cp.rsp = true := by
  rcases Nat.lt_or_ge (s.params.fbCap - s.fbuf.length) xs.length with hlt | hle
  · rw [exec_fbpush_of_not_fits hlt] at h; cases h; rfl
  · rw [exec_fbpush_of_fits hle] at h; cases h; rfl

theorem validate_responseFits (hlen : s.fbuf.length ≤ 255) (h : exec .validate s = .next t) :
    responseFits .validate t.cp.rsp = true := by
  cases hverdict : validateBytes s.fbuf with
  | needMore => rw [exec_validate_of_needMore hverdict] at h; cases h; rfl
  | csum => rw [exec_validate_of_csum hverdict] at h; cases h; rfl
  | ok st e a node span =>
    rw [exec_validate_of_ok hverdict] at h
    cases h
    have hfits := lenFieldFits_lenList ((length_span_le hverdict).trans hlen)
    exact Bool.or_eq_true_iff.mpr (.inl (Bool.or_eq_true_iff.mpr (.inl hfits)))

theorem bdata_responseFits {xs : List Byte} (hmax : s.params.maxFrame ≤ 254) (h : exec (.bdata xs) s = .next t) :
    responseFits (.bdata xs) t.cp.rsp = true := by
  rcases Nat.lt_or_ge s.params.maxFrame (xs.length + 1) with hlt | hle
  · rw [exec_bdata_of_tooLong hlt] at h; cases h; rfl
  · have hfits : lenFieldFits (lenList (xs ++ [s.params.dataTerm])) = true :=
      lenFieldFits_lenList (by simp; omega)
    rw [exec_bdata_of_fits hle] at h
    cases h
    rw [lenList, lenByte, List.length_append] at hfits
    exact Bool.or_eq_true_iff.mpr (.inl hfits)

end Shapes

/-- A response at once is one of Table E3. -/
theorem exec_responseFits {i : Instr} {s t : State} (hp : s.params.Legal) (hs : RingInv s)
    (hlen : s.fbuf.length ≤ s.params.fbCap) (hi : ∀ f, i ≠ .xcv f) (h : exec i s = .next t) :
    responseFits i (t.port i.port).rsp = true := by
  have ⟨_, _, _, hcap, _, hmax, _⟩ := hp
  cases i with
  | rbwr b => exact rbwr_responseFits hs h
  | rbdrain => exact rbdrain_responseFits hp hs h
  | dec => exact dec_responseFits h
  | fbpush xs => exact fbpush_responseFits h
  | validate => exact validate_responseFits (hlen.trans hcap) h
  | bdata xs => exact bdata_responseFits hmax h
  | xcv f => exact absurd rfl (hi f)
  | rbstat | enc | fbclear | bval | stat => cases h; rfl

/-- Settles O10: the operations one by one, and the ends of a transfer (`busCycle_transferStep`). -/
theorem responsesHaveTableE3Shape : Obligations.ResponsesHaveTableE3Shape := by
  unfold Obligations.ResponsesHaveTableE3Shape
  refine ⟨fun s i t hp hs hlen hi h => exec_responseFits hp hs hlen hi h, fun s rdy d hinv hrun hend => ?_⟩
  obtain ⟨⟨_, _, _, _, _, hmax, _⟩, -, -, ⟨-, -, hrxr, -⟩, -⟩ := hinv
  cases busCycle_transferStep hrun rdy d with
  | runs hfsm => exact absurd hend hfsm
  | relays _ att cause hrsp =>
    rw [hrsp]
    exact lenFieldFits_lenList (by omega)
  | givesUp _ att cause hrsp => rw [hrsp]; rfl

end Sys2Proof.Machine

/-! The invariant (`State.Inv`): reset establishes it and every step keeps it. Its parts are kept by different arguments:
the ring's by the queue's rules, the bus controller's row by row, and each port's by what a byte does to that port. -/

namespace Sys2Proof.Machine

/-! ### The bus controller's part -/

/-- What every row leaves alone of the bounds of `BusInv` (10_state.md R33 to R35). -/
structure BusBounds (p : Params) (b : Bus) : Prop where
  txf : b.txf.length ≤ 255
  idx : b.idx ≤ 255
  rxr : b.rxr.length ≤ p.maxFrame

theorem failAttempt_busInv {c : Status} {s : State} (hp : s.params.Legal) (h : BusBounds s.params s.bus) :
    BusInv s.params (failAttempt c s).bus := by
  obtain ⟨htxf, hidx, hrxr⟩ := h
  obtain ⟨-, -, -, -, -, -, -, -, -, hgap⟩ := hp
  by_cases hatt : s.bus.att.toNat < 3
  · have hnext : 1 ≤ (s.bus.att + 1).toNat := by rw [BitVec.toNat_add]; simp; omega
    rw [failAttempt_retry hatt]
    exact ⟨htxf, hidx, hrxr, rfl, rfl, nofun, nofun, nofun, nofun,
      fun _ => hnext, decide_eq_true hgap⟩
  · rw [failAttempt_last hatt]
    exact ⟨htxf, hidx, hrxr, rfl, rfl, nofun, nofun, nofun, nofun,
      fun h => absurd rfl h, rfl⟩

/-- Going on with a frame byte, or with the turnaround, from idle lines or a released strobe (R215). -/
theorem driveOrTurn_busInv {p : Params} {k : Nat} {b : Bus} (hp : p.Legal) (h : BusBounds p b) (hclk : b.clkO = true)
    (hatt : 1 ≤ b.att.toNat) : BusInv p (driveOrTurn k b) := by
  obtain ⟨htxf, hidx, hrxr⟩ := h
  obtain ⟨-, -, -, -, -, -, -, hsetup, -, -⟩ := hp
  cases hk : b.txf[k]? with
  | none =>
    rw [driveOrTurn_none hk]
    exact ⟨htxf, hidx, Nat.zero_le _, rfl, hclk, nofun, nofun, fun _ => rfl,
      nofun, fun _ => hatt, rfl⟩
  | some c =>
    obtain ⟨hlt, -⟩ := List.getElem?_eq_some_iff.mp hk
    rw [driveOrTurn_some hk]
    exact ⟨htxf, (Nat.le_of_lt hlt).trans htxf, hrxr, rfl, hclk, fun _ => hk, nofun, nofun,
      nofun, fun _ => hatt, decide_eq_true hsetup⟩

/-- One more cycle of a counted state that goes on. -/
theorem countCycle_busInv {p : Params} {b : Bus} {n : Nat} (h : BusInv p b) (hn : stateCycles p b.fsm = some n)
    (hlt : b.tcnt + 1 < n) : BusInv p (countCycle b) := by
  obtain ⟨htxf, hidx, hrxr, hoe, hclk, hdrive, hsome, hturn, hmore, hatt, -⟩ := h
  have hbelow : tcntBelow p (countCycle b) = true := by
    rw [tcntBelow, show (countCycle b).fsm = b.fsm from rfl, hn]
    exact decide_eq_true hlt
  exact ⟨htxf, hidx, hrxr, hoe, hclk, hdrive, hsome, hturn, hmore, hatt, hbelow⟩

/-- Every cycle keeps the bus controller's part, row by row. -/
theorem busCycle_busInv {s : State} (hp : s.params.Legal) (h : BusInv s.params s.bus) (rdy : Bool) (d : Byte) :
    BusInv s.params (busCycle rdy d s).bus := by
  obtain ⟨ds, e, hrow, hcycle⟩ := busCycle_row rdy d s
  obtain ⟨htxf, hidx, hrxr, hoe, hclk, hdrive, hsome, hturn, hmore, hatt, -⟩ := id h
  have ⟨_, _, _, _, hmaxPos, _, hT, _, hack, _⟩ := hp
  have hTpos : 0 < s.params.fClk := by omega
  rw [hcycle]
  cases hrow with
  | idle hfsm =>
    have hidle : idleLines s.bus = s.bus := by
      rw [hfsm] at hoe hclk
      exact idleLines_eq_self hclk hoe
    rw [hidle]
    exact h
  | ready hfsm =>
    rw [hfsm] at hclk hatt
    exact driveOrTurn_busInv hp ⟨htxf, hidx, hrxr⟩ hclk (hatt nofun)
  | notReady | timesOut | rejected => exact failAttempt_busInv hp ⟨htxf, hidx, hrxr⟩
  | counts hn _ _ hlt => exact countCycle_busInv h hn hlt
  | driven hfsm =>
    rw [hfsm] at hoe hdrive hatt
    exact ⟨htxf, hidx, hrxr, hoe, rfl, hdrive, nofun, nofun, nofun, fun _ => hatt nofun, rfl⟩
  | strobed hfsm =>
    rw [hfsm] at hoe hclk hdrive hatt
    exact ⟨htxf, hidx, hrxr, hoe, hclk, hdrive, nofun, nofun, nofun, fun _ => hatt nofun, decide_eq_true hTpos⟩
  | acked hfsm =>
    rw [hfsm] at hoe hdrive hatt
    exact ⟨htxf, hidx, hrxr, hoe, rfl, hdrive, nofun, nofun, nofun, fun _ => hatt nofun, decide_eq_true hTpos⟩
  | released hfsm =>
    rw [hfsm] at hclk hdrive hatt
    obtain ⟨hlt, -⟩ := List.getElem?_eq_some_iff.mp (hdrive rfl)
    exact driveOrTurn_busInv (b := { countCycle s.bus with idx := s.bus.idx + 1 }) hp
      ⟨htxf, (Nat.succ_le_of_lt hlt).trans htxf, hrxr⟩ hclk (hatt nofun)
  | turned hfsm =>
    rw [hfsm] at hoe hclk hatt
    have hempty := hturn hfsm
    exact ⟨htxf, hidx, hrxr, hoe, hclk, nofun, nofun, nofun, fun _ => by simp [CycleEffect.apply, hempty]; omega,
      fun _ => hatt nofun, decide_eq_true hTpos⟩
  | sampled hfsm =>
    have hroom : (s.bus.rxr ++ [d]).length ≤ s.params.maxFrame := by
      rw [List.length_append]
      exact hmore hfsm
    rw [hfsm] at hoe hatt
    exact ⟨htxf, hidx, hroom, hoe, rfl, nofun, fun _ => List.concat_ne_nil _ _, nofun, nofun, fun _ => hatt nofun,
      decide_eq_true hack⟩
  | pulsed hfsm =>
    rw [hfsm] at hoe hsome hatt
    exact ⟨htxf, hidx, hrxr, hoe, rfl, nofun, fun _ => hsome rfl, nofun, nofun, fun _ => hatt nofun,
      decide_eq_true hTpos⟩
  | received hfsm =>
    rw [hfsm] at hoe hclk hsome hatt
    exact ⟨htxf, hidx, hrxr, hoe, hclk, nofun, fun _ => hsome rfl, nofun, nofun, fun _ => hatt nofun, rfl⟩
  | nextByte hfsm _ hdone =>
    rw [hfsm] at hoe hclk hatt
    have hlt : s.bus.rxr.length < s.params.maxFrame := Nat.lt_of_not_le fun hle => by
      simp [replyDone_iff.mpr (.inr hle)] at hdone
    exact ⟨htxf, hidx, hrxr, hoe, hclk, nofun, nofun, nofun, fun _ => hlt, fun _ => hatt nofun, decide_eq_true hTpos⟩
  | relayed hfsm =>
    rw [hfsm] at hoe hclk
    exact ⟨htxf, hidx, hrxr, hoe, hclk, nofun, nofun, nofun, nofun, fun h => absurd rfl h, rfl⟩
  | gapCounts hfsm hlt =>
    have hidle : idleLines (countCycle s.bus) = countCycle s.bus := by
      rw [hfsm] at hoe hclk
      exact idleLines_eq_self hclk hoe
    rw [hidle]
    exact countCycle_busInv h (by rw [hfsm]; rfl) hlt
  | gapEnds hfsm =>
    rw [hfsm] at hatt
    exact ⟨htxf, hidx, hrxr, rfl, rfl, nofun, nofun, nofun, nofun, fun _ => hatt nofun, rfl⟩

/-- A starting transfer keeps the lines of the idle state (R215, row `IDLE`). -/
theorem start_busInv {p : Params} {b : Bus} {f : List Byte} (h : BusInv p b) (hidle : b.fsm = .idle)
    (hf : f.length ≤ 255) : BusInv p { b with fsm := .chkrdy, txf := f, att := 1, cause := 0x00 } := by
  obtain ⟨-, hidx, hrxr, hoe, hclk, -⟩ := h
  rw [hidle] at hoe hclk
  exact ⟨hf, hidx, hrxr, hoe, hclk, nofun, nofun, nofun, nofun, fun _ => (by decide : 1 ≤ (1 : BitVec 2).toNat), rfl⟩

/-! ### The ports' part -/

/-- The invariant of the write port: busy exactly while a response is pending (10_state.md R37, R38). -/
structure WpOk (q : Port) : Prop where
  busyIdle : q.busy = true → q.dec = []
  collecting : decode .wp q.dec = .error .incomplete
  pending : q.busy = true ↔ q.rsp ≠ []

/-- The invariant of the command port beside a bus controller in state `f`: busy while a response is pending and for the
whole of a transfer (R38, R232). -/
structure CpOk (f : Fsm) (q : Port) : Prop where
  busyIdle : q.busy = true → q.dec = []
  collecting : decode .cp q.dec = .error .incomplete
  answered : q.rsp ≠ [] → q.busy = true ∧ f = .idle
  running : f ≠ .idle → q.busy = true
  busyFor : q.busy = true → q.rsp ≠ [] ∨ f ≠ .idle

/-- The invariant of port `p` beside a bus controller in state `f`. -/
def PortOk (f : Fsm) : PortId → Port → Prop
  | .cp => CpOk f
  | .wp => WpOk

theorem portsInv_iff {s : State} : PortsInv s ↔ ∀ p, PortOk s.bus.fsm p (s.port p) := by
  constructor
  · rintro ⟨hcpIdle, hwpIdle, hcpDec, hwpDec, hwpRsp, hcpRsp, hrun, hbusy⟩ p
    cases p with
    | cp => exact ⟨hcpIdle, hcpDec, hcpRsp, hrun, hbusy⟩
    | wp => exact ⟨hwpIdle, hwpDec, hwpRsp⟩
  · intro h
    obtain ⟨hcpIdle, hcpDec, hcpRsp, hrun, hbusy⟩ := h .cp
    obtain ⟨hwpIdle, hwpDec, hwpRsp⟩ := h .wp
    exact ⟨hcpIdle, hwpIdle, hcpDec, hwpDec, hwpRsp, hcpRsp, hrun, hbusy⟩

section Ports

variable {f : Fsm} {p : PortId} {q : Port} (h : PortOk f p q)

include h

theorem PortOk.collecting : decode p q.dec = .error .incomplete := by
  cases p with
  | cp => exact CpOk.collecting h
  | wp => exact WpOk.collecting h

theorem PortOk.rsp_of_not_busy (hbusy : q.busy = false) : q.rsp = [] := by
  by_contra hrsp
  cases p with
  | cp => exact absurd (CpOk.answered h hrsp).1 (by simp [hbusy])
  | wp => exact absurd ((WpOk.pending h).mpr hrsp) (by simp [hbusy])

/-- The command port is busy for the whole of a transfer (R232). -/
theorem PortOk.idle_of_not_busy (hbusy : q.busy = false) : p = .cp → f = .idle := by
  rintro rfl
  by_contra hrun
  exact absurd (hbusy.symm.trans (CpOk.running h hrun)) (by decide)

/-- A byte is collected (R37). -/
theorem PortOk.collect {dec : List Byte} (hbusy : q.busy = false) (hdec : decode p dec = .error .incomplete)
    (inq : List Byte) : PortOk f p { q with inq := inq, dec := dec } := by
  have hidle : q.busy = true → dec = [] := fun hb => by simp [hbusy] at hb
  cases p with
  | cp =>
    obtain ⟨-, -, hans, hrun, hfor⟩ : CpOk f q := h
    exact ⟨hidle, hdec, hans, hrun, hfor⟩
  | wp =>
    obtain ⟨-, -, hpending⟩ : WpOk q := h
    exact ⟨hidle, hdec, hpending⟩

/-- A response byte is taken (R38). -/
theorem PortOk.deliver : PortOk f p q.deliver := by
  cases hrsp : q.rsp with
  | nil => rwa [deliver_nil hrsp]
  | cons b rest =>
    have hne : q.rsp ≠ [] := by simp [hrsp]
    have hpending : (!rest.isEmpty) = true ↔ rest ≠ [] := by simp
    rw [deliver_cons hrsp]
    cases p with
    | cp =>
      obtain ⟨hdec, hcoll, hans, -, -⟩ : CpOk f q := h
      obtain ⟨hbusy, hidle⟩ := hans hne
      exact ⟨fun _ => hdec hbusy, hcoll, fun hr => ⟨hpending.mpr hr, hidle⟩, fun hf => absurd hidle hf,
        fun hb => .inl (hpending.mp hb)⟩
    | wp =>
      obtain ⟨hdec, hcoll, hbusy⟩ : WpOk q := h
      exact ⟨fun _ => hdec (hbusy.mpr hne), hcoll, hpending⟩

end Ports

/-- A port that has just answered: busy, its decoder idle, a response pending (R37, R38). -/
theorem PortOk.answered {f : Fsm} {p : PortId} {q : Port} (hidle : p = .cp → f = .idle) (hdec : q.dec = [])
    (hbusy : q.busy = true) (hrsp : q.rsp ≠ []) : PortOk f p q := by
  cases p with
  | cp =>
    exact ⟨fun _ => hdec, by rw [hdec]; rfl, fun _ => ⟨hbusy, hidle rfl⟩, fun _ => hbusy, fun _ => .inl hrsp⟩
  | wp => exact ⟨fun _ => hdec, by rw [hdec]; rfl, iff_of_true hbusy hrsp⟩

/-- A command port whose transfer runs (R232). -/
theorem CpOk.started {f : Fsm} {q : Port} (hrun : f ≠ .idle) (hdec : q.dec = []) (hbusy : q.busy = true)
    (hrsp : q.rsp = []) : CpOk f q :=
  ⟨fun _ => hdec, by rw [hdec]; rfl, fun h => absurd hrsp h, fun _ => hbusy, fun _ => .inr hrun⟩

/-! ### One cycle -/

/-- Every cycle keeps the command port consistent: while a transfer runs nothing is pending, and its end answers. -/
theorem busCycle_cpOk {s : State} (h : CpOk s.bus.fsm s.cp) (rdy : Bool) (d : Byte) :
    CpOk (busCycle rdy d s).bus.fsm (busCycle rdy d s).cp := by
  have hcp : (busCycle rdy d s).cp = { s.cp with rsp := (busCycle rdy d s).cp.rsp } :=
    congrArg State.cp (busCycle_eq_withBus rdy d s)
  by_cases hidle : s.bus.fsm = .idle
  · rw [(Row.idle hidle).busCycle_eq]
    exact h
  have hbusy := h.running hidle
  have hrsp : s.cp.rsp = [] := by
    by_contra hne
    exact hidle (h.answered hne).2
  cases busCycle_transferStep hidle rdy d with
  | runs hrun hsame =>
    rw [hcp]
    exact CpOk.started hrun (h.busyIdle hbusy) hbusy (hsame.trans hrsp)
  | relays hend _ _ hans | givesUp hend _ _ hans =>
    rw [hcp]
    exact PortOk.answered (p := .cp) (fun _ => hend) (h.busyIdle hbusy) hbusy (by rw [hans]; exact List.cons_ne_nil _ _)

/-- Every cycle keeps the invariant. -/
theorem busCycle_inv {s : State} (h : s.Inv) (rdy : Bool) (d : Byte) : (busCycle rdy d s).Inv := by
  obtain ⟨hp, hring, hbuf, hbus, hports⟩ := h
  have hframe := busCycle_eq_withBus rdy d s
  have hsame : SameRing s (busCycle rdy d s) := by rw [hframe]; exact ⟨rfl, rfl, rfl, rfl⟩
  have hbuf' : (busCycle rdy d s).fbuf = s.fbuf := by rw [hframe]; rfl
  have hwp : (busCycle rdy d s).wp = s.wp := by rw [hframe]; rfl
  have hok := portsInv_iff.mp hports
  refine ⟨by rwa [hsame.params], hsame.ringInv hring, by rwa [hbuf', hsame.params], ?_, portsInv_iff.mpr fun p => ?_⟩
  · rw [hsame.params]
    exact busCycle_busInv hp hbus rdy d
  · cases p with
    | cp => exact busCycle_cpOk (hok .cp) rdy d
    | wp => rw [port_wp, hwp]; exact hok .wp

/-- Settles O52: the invariant after the cycle (`busCycle_inv`) gives the idle lines and, as the port is busy, a pending
response. -/
theorem xcvEndsWithIdleLines : Obligations.XcvEndsWithIdleLines := by
  unfold Obligations.XcvEndsWithIdleLines
  intro s rdy d hinv hrun hend
  obtain ⟨-, -, -, ⟨-, -, -, hoe, hclk, -⟩, -⟩ := busCycle_inv hinv rdy d
  rw [hend] at hoe hclk
  refine ⟨hclk, hoe, by rw [busData, hoe]; rfl, ?_⟩
  cases busCycle_transferStep hrun rdy d with
  | runs hfsm => exact absurd hend hfsm
  | relays _ _ _ hrsp | givesUp _ _ _ hrsp => rw [hrsp]; exact List.cons_ne_nil _ _

/-! ### One port event -/

theorem port_setPort_of_ne {p r : PortId} (h : r ≠ p) (s : State) (q : Port) : (s.setPort p q).port r = s.port r := by
  cases p <;> cases r <;> trivial

/-- A change of one port alone keeps the invariant when that port stays consistent. -/
theorem inv_setPort {s : State} (h : s.Inv) {p : PortId} {q : Port} (hq : PortOk s.bus.fsm p q) :
    (s.setPort p q).Inv := by
  obtain ⟨hp, hring, hbuf, hbus, hports⟩ := h
  have hok := portsInv_iff.mp hports
  have hsame : SameRing s (s.setPort p q) := ⟨by simp, by simp, by simp, by simp⟩
  refine ⟨by simpa using hp, hsame.ringInv hring, by simpa using hbuf, by simpa using hbus, portsInv_iff.mpr fun r => ?_⟩
  rw [setPort_bus]
  by_cases hr : r = p
  · subst hr
    rwa [port_setPort]
  · rw [port_setPort_of_ne hr]
    exact hok r

theorem responseByte_inv {s : State} (h : s.Inv) (p : PortId) : (responseByte p s).Inv := by
  obtain ⟨-, -, -, -, hports⟩ := id h
  exact inv_setPort h (portsInv_iff.mp hports p).deliver

theorem exec_fbuf_le {i : Instr} {s t : State} (h : exec i s = .next t) (hs : s.fbuf.length ≤ s.params.fbCap) :
    t.fbuf.length ≤ s.params.fbCap := by
  rcases exec_buffer_cases h with ⟨xs, rfl⟩ | rfl | rfl | hsame
  · rcases Nat.lt_or_ge (s.params.fbCap - s.fbuf.length) xs.length with hlt | hle
    · rw [exec_fbpush_of_not_fits hlt] at h
      cases h
      simp
      omega
    · rw [exec_fbpush_of_fits hle] at h
      cases h
      simp
      omega
  · have hdrop : ∀ e, (s.fbuf.drop e).length ≤ s.params.fbCap := fun e => by rw [List.length_drop]; omega
    cases hverdict : validateBytes s.fbuf with
    | needMore => rw [exec_validate_of_needMore hverdict] at h; cases h; exact hs
    | csum => rw [exec_validate_of_csum hverdict] at h; cases h; exact hdrop _
    | ok => rw [exec_validate_of_ok hverdict] at h; cases h; exact hdrop _
  · cases h
    exact Nat.zero_le _
  · rw [hsame.fbuf]
    exact hs

theorem responseFits_ne_nil {i : Instr} {rsp : List Byte} (h : responseFits i rsp = true) : rsp ≠ [] := by
  rintro rfl
  cases i <;> cases h

/-- An operation other than `XCV`, performed when its last byte has come, completes and keeps the invariant. -/
theorem exec_inv {i : Instr} {s : State} {q : Port} (h : s.Inv) (hbusy : (s.port i.port).busy = false)
    (hi : ∀ f, i ≠ .xcv f) (hq : q.busy = true ∧ q.dec = []) :
    ∃ t, exec i (s.setPort i.port q) = .next t ∧ t.Inv ∧ t.params = s.params := by
  obtain ⟨hp, hring, hbuf, hbus, hports⟩ := h
  obtain ⟨hqbusy, hqdec⟩ := hq
  have hok := portsInv_iff.mp hports
  have hidle : i.port = .cp → s.bus.fsm = .idle := (hok i.port).idle_of_not_busy hbusy
  have hsame : SameRing s (s.setPort i.port q) := ⟨by simp, by simp, by simp, by simp⟩
  have hring' := hsame.ringInv hring
  have hp' : (s.setPort i.port q).params.Legal := by simpa using hp
  have hbuf' : (s.setPort i.port q).fbuf.length ≤ (s.setPort i.port q).params.fbCap := by simpa using hbuf
  obtain ⟨t, ht, hparams, hringt, -⟩ := exec_fifo i hp' hring'
  obtain ⟨-, -, -, -, -, -, -, hbust, hown, hother⟩ := operationsTouchOnlyTheirState _ _ _ ht
  have hbust := hbust hi
  have hbuft := exec_fbuf_le ht hbuf'
  rw [setPort_params] at hparams hbuft
  rw [setPort_bus] at hbust
  refine ⟨t, ht, ⟨by rwa [hparams], hringt, by rwa [hparams], by rwa [hparams, hbust], portsInv_iff.mpr fun r => ?_⟩,
    hparams⟩
  rw [hbust]
  by_cases hr : r = i.port
  · subst hr
    have hrsp := responseFits_ne_nil (exec_responseFits hp' hring' hbuf' hi ht)
    have hport := hown i.port
    rw [port_setPort] at hport
    rw [hport]
    exact PortOk.answered hidle hqdec hqbusy hrsp
  · rw [hother r hr, port_setPort_of_ne hr]
    exact hok r

/-- `XCV` starts a transfer on a block at rest, and the port waits for its end (R232). -/
theorem xcv_inv {f : List Byte} {s : State} {q : Port} (h : s.Inv) (hidle : s.bus.fsm = .idle)
    (hq : q.busy = true ∧ q.dec = [] ∧ q.rsp = []) (hf : f.length ≤ 255) :
    ({ s.setPort .cp q with bus := { s.bus with fsm := .chkrdy, txf := f, att := 1, cause := 0x00 } } : State).Inv := by
  obtain ⟨hp, hring, hbuf, hbus, hports⟩ := h
  obtain ⟨hbusy, hdec, hrsp⟩ := hq
  refine ⟨hp, hring, hbuf, start_busInv hbus hidle hf, portsInv_iff.mpr fun r => ?_⟩
  cases r with
  | cp => exact CpOk.started nofun hdec hbusy hrsp
  | wp => exact portsInv_iff.mp hports .wp

/-- A completed request is performed, whatever it is. -/
theorem request_inv {i : Instr} {s : State} {inq : List Byte} (h : s.Inv) (hwf : i.wellFormed = true)
    (hbusy : (s.port i.port).busy = false) :
    ∃ t, exec i (s.setPort i.port { s.port i.port with inq := inq, dec := [], busy := true }) = .next t ∧
      t.Inv ∧ t.params = s.params := by
  by_cases hxcv : ∃ f, i = .xcv f
  · obtain ⟨f, rfl⟩ := hxcv
    obtain ⟨-, -, -, -, hports⟩ := id h
    have hok := portsInv_iff.mp hports .cp
    exact ⟨_, rfl, xcv_inv h (hok.idle_of_not_busy hbusy rfl) ⟨rfl, rfl, hok.rsp_of_not_busy hbusy⟩ (lengthFits_iff.mp hwf),
      rfl⟩
  · exact exec_inv h hbusy (fun f hf => hxcv ⟨f, hf⟩) ⟨rfl, rfl⟩

/-- An offered request byte keeps the invariant, whatever it brings. -/
theorem requestByte_inv {s : State} (h : s.Inv) (p : PortId) :
    ∃ t, requestByte p s = .next t ∧ t.Inv ∧ t.params = s.params := by
  obtain ⟨-, -, -, -, hports⟩ := id h
  have hok := portsInv_iff.mp hports p
  unfold requestByte
  rcases fetch_cases p s with ⟨-, hf⟩ | ⟨b, q, haccept, hfetched⟩
  · rw [hf]
    exact ⟨s, rfl, h, rfl⟩
  obtain ⟨hbusy, inq, -, rfl⟩ := accept_eq_some.mp haccept
  rcases hfetched with ⟨i, rest, hdec, hf⟩ | ⟨hdec, hf⟩ | ⟨op, hdec, hf⟩ <;> rw [hf]
  · obtain ⟨-, hwf, rfl⟩ := decodedBytesAreTheEncoding _ _ _ _ hdec
    obtain rfl := decode_snoc_ok hok.collecting hdec
    exact request_inv h hwf hbusy
  · exact ⟨_, rfl, inv_setPort h (hok.collect hbusy hdec inq), setPort_params ..⟩
  · have hempty := decode_snoc_illegal hok.collecting hdec
    have hanswered : PortOk s.bus.fsm p { s.port p with
        inq := inq, dec := ((s.port p).dec ++ [b]).tail, busy := true, rsp := [0x0F] } :=
      PortOk.answered (hok.idle_of_not_busy hbusy) (by rw [hempty]; rfl) rfl (List.cons_ne_nil _ _)
    refine ⟨_, rfl, ?_, (respond_params ..).trans (setPort_params ..)⟩
    rw [answerIllegal, respond, port_setPort, setPort_setPort]
    exact inv_setPort h hanswered

/-! ### Reset -/

theorem ringInv_of_empty {s : State} (hp : s.params.Legal) (hring : s.ring = []) (hi : s.inPtr = 0) (ho : s.outPtr = 0) :
    RingInv s := by
  obtain ⟨hN2, -⟩ := hp
  have hpos : (0 : Byte).toNat < s.params.ringN := Nat.zero_lt_of_lt hN2
  refine ⟨by rw [hring]; exact wf_nil, by simp [hring], by rwa [hi], by rwa [ho], fun i hmem => ?_⟩
  rw [unreadSlots_eq_nil (hi.trans ho.symm)] at hmem
  exact absurd hmem List.not_mem_nil

/-- An idle port whatever its issuer offers and has taken. -/
theorem portOk_reset (p : PortId) (f : Fsm) (hf : f = .idle) (inq out : List Byte) :
    PortOk f p { Port.reset with inq := inq, out := out } := by
  cases p with
  | cp => exact ⟨nofun, rfl, fun h => absurd rfl h, fun h => absurd hf h, nofun⟩
  | wp => exact ⟨nofun, rfl, iff_of_false nofun fun h => h rfl⟩

theorem applyReset_inv {s : State} (hp : s.params.Legal) : (applyReset s).Inv := by
  have hbus : BusInv s.params Bus.reset :=
    ⟨Nat.zero_le _, Nat.zero_le _, Nat.zero_le _, rfl, rfl, nofun, nofun, nofun, nofun, fun h => absurd rfl h, rfl⟩
  refine ⟨hp, ringInv_of_empty hp rfl rfl rfl, Nat.zero_le _, hbus, portsInv_iff.mpr fun p => ?_⟩
  cases p with
  | cp => exact portOk_reset .cp _ rfl _ _
  | wp => exact portOk_reset .wp _ rfl _ _

/-- Settles O56: each element is a literal of `State.resetWith`; equal pointers leave nothing unread. -/
theorem resetValuesOfTableS1 : Obligations.ResetValuesOfTableS1 := by
  unfold Obligations.ResetValuesOfTableS1
  refine ⟨⟨Params.resetChoice, rfl⟩, fun p => ?_⟩
  have hunread : unreadBytes (State.resetWith p) = [] := by rw [unreadBytes, unreadSlots_eq_nil rfl, List.map_nil]
  exact ⟨rfl, rfl, rfl, rfl, rfl, rfl, rfl, rfl, rfl, rfl, rfl, rfl, rfl, rfl, rfl, rfl, rfl, rfl, rfl, rfl, rfl, hunread⟩

/-- Settles O57: the event is one update of the state. -/
theorem resetAbandonsEverything : Obligations.ResetAbandonsEverything := by
  unfold Obligations.ResetAbandonsEverything
  intro s evs henv
  exact ⟨_, step_cons henv, rfl, rfl, rfl, rfl, rfl, rfl⟩

/-- Settles O58: the reset state is what reset makes of itself (`applyReset_inv`). -/
theorem resetKeepsTheInvariant : Obligations.ResetKeepsTheInvariant := by
  unfold Obligations.ResetKeepsTheInvariant
  exact fun p hp => applyReset_inv (s := State.resetWith p) hp

/-! ### One step -/

/-- Settles O59: one case per event. -/
theorem everyStepKeepsTheInvariant : Obligations.EveryStepKeepsTheInvariant := by
  unfold Obligations.EveryStepKeepsTheInvariant
  intro s h
  rcases step_cases s with ⟨-, hstep⟩ | ⟨e, evs, -, hstep⟩ <;> rw [hstep]
  · exact ⟨s, rfl, h, rfl⟩
  have h' : ({ s with env := evs } : State).Inv := h
  cases e with
  | cpReq => exact requestByte_inv h' .cp
  | wpReq => exact requestByte_inv h' .wp
  | cpRsp => exact ⟨_, rfl, responseByte_inv h' .cp, rfl⟩
  | wpRsp => exact ⟨_, rfl, responseByte_inv h' .wp, rfl⟩
  | clk rdy d => exact ⟨_, rfl, busCycle_inv h' rdy d, busCycle_params rdy d { s with env := evs }⟩
  | rst =>
    obtain ⟨hp, -⟩ := h'
    exact ⟨_, rfl, applyReset_inv hp, rfl⟩

end Sys2Proof.Machine

/-! The bound on an `XCV` (44_bus_transport.md R233). `cyclesLeft` counts the cycles a transfer still takes at most; every
cycle of a running transfer lowers it, row by row, from whatever state the transfer is in. -/

namespace Sys2Proof.Machine

/-! ### The cycles left -/

/-- The cycles a state that lasts `n` cycles still lasts at most, after `k` of them; the ends of counts are tests by at
least, so there is one always. -/
def stateLeft (n k : Nat) : Nat := max 1 (n - k)

theorem stateLeft_pos (n k : Nat) : 1 ≤ stateLeft n k := Nat.le_max_left ..

theorem stateLeft_zero {n : Nat} (h : 1 ≤ n) : stateLeft n 0 = n := by rw [stateLeft, Nat.sub_zero, Nat.max_eq_right h]

/-- A further cycle of a state that goes on. -/
theorem stateLeft_succ {n k : Nat} (h : k + 1 < n) : stateLeft n (k + 1) + 1 = stateLeft n k := by
  simp only [stateLeft]
  omega

/-- The cycles of `k` more reply bytes and of `EVAL` at most (R220, R224). -/
def replyLeft (p : Params) (k : Nat) : Nat := k * (2 * p.fClk + p.ackPulseCycles) + 1

theorem replyLeft_pos (p : Params) (k : Nat) : 1 ≤ replyLeft p k := Nat.le_add_left ..

theorem replyLeft_succ (p : Params) (k : Nat) :
    replyLeft p (k + 1) = 2 * p.fClk + p.ackPulseCycles + replyLeft p k := by
  rw [replyLeft, replyLeft, Nat.succ_mul]
  omega

/-- The cycles of `k` more frame bytes, the turnaround and a whole reply at most (R216, R219). -/
def sendLeft (p : Params) (k : Nat) : Nat := k * (p.setupCycles + 1 + 2 * p.fClk) + 1 + replyLeft p p.maxFrame

theorem sendLeft_succ (p : Params) (k : Nat) : sendLeft p (k + 1) = p.setupCycles + 1 + 2 * p.fClk + sendLeft p k := by
  rw [sendLeft, sendLeft, Nat.succ_mul]
  omega

theorem attemptBound_eq (p : Params) (n : Nat) : attemptBound p n = 1 + sendLeft p n := by
  rw [attemptBound, sendLeft, replyLeft]
  omega

/-- The cycles the attempt in progress still takes at most. -/
def attemptLeft (p : Params) (b : Bus) : Nat :=
  match b.fsm with
  | .idle | .gap => 0
  | .chkrdy => attemptBound p b.txf.length
  | .sDrive => stateLeft p.setupCycles b.tcnt + 1 + 2 * p.fClk + sendLeft p (b.txf.length - (b.idx + 1))
  | .sStrobe => 1 + 2 * p.fClk + sendLeft p (b.txf.length - (b.idx + 1))
  | .sWack => stateLeft p.fClk b.tcnt + p.fClk + sendLeft p (b.txf.length - (b.idx + 1))
  | .sWrel => stateLeft p.fClk b.tcnt + sendLeft p (b.txf.length - (b.idx + 1))
  | .sTurn => 1 + 2 * p.fClk + p.ackPulseCycles + replyLeft p (p.maxFrame - (b.rxr.length + 1))
  | .rWstb => stateLeft p.fClk b.tcnt + p.ackPulseCycles + p.fClk + replyLeft p (p.maxFrame - (b.rxr.length + 1))
  | .rAck => stateLeft p.ackPulseCycles b.tcnt + p.fClk + replyLeft p (p.maxFrame - b.rxr.length)
  | .rWrel => stateLeft p.fClk b.tcnt + replyLeft p (p.maxFrame - b.rxr.length)
  | .eval => 1

/-- The cycles of the attempts after this one and of the gaps before them at most (R226). -/
def retriesLeft (p : Params) (b : Bus) : Nat :=
  (3 - b.att.toNat) * (p.retryGapCycles + attemptBound p b.txf.length)

/-- The cycles a transfer still takes at most, none when none runs. -/
def cyclesLeft (p : Params) (b : Bus) : Nat :=
  match b.fsm with
  | .idle => 0
  | .gap => stateLeft p.retryGapCycles b.tcnt + attemptBound p b.txf.length + retriesLeft p b
  | _ => attemptLeft p b + retriesLeft p b

theorem cyclesLeft_idle {p : Params} {b : Bus} (h : b.fsm = .idle) : cyclesLeft p b = 0 := by rw [cyclesLeft, h]

theorem cyclesLeft_gap {p : Params} {b : Bus} (h : b.fsm = .gap) :
    cyclesLeft p b = stateLeft p.retryGapCycles b.tcnt + attemptBound p b.txf.length + retriesLeft p b := by
  rw [cyclesLeft, h]

theorem cyclesLeft_attempt {p : Params} {b : Bus} (hidle : b.fsm ≠ .idle) (hgap : b.fsm ≠ .gap) :
    cyclesLeft p b = attemptLeft p b + retriesLeft p b := by
  unfold cyclesLeft
  split
  · next h => exact absurd h hidle
  · next h => exact absurd h hgap
  · rfl

theorem attemptLeft_pos {p : Params} {b : Bus} (hidle : b.fsm ≠ .idle) (hgap : b.fsm ≠ .gap) : 1 ≤ attemptLeft p b := by
  cases hfsm : b.fsm with
  | idle => exact absurd hfsm hidle
  | gap => exact absurd hfsm hgap
  | chkrdy =>
    simp only [attemptLeft, hfsm, attemptBound_eq]
    omega
  | sStrobe | sTurn | eval =>
    simp only [attemptLeft, hfsm]
    omega
  | sDrive | sWack | sWrel | rWstb | rAck | rWrel =>
    simp only [attemptLeft, hfsm]
    linarith [stateLeft_pos p.setupCycles b.tcnt, stateLeft_pos p.fClk b.tcnt, stateLeft_pos p.ackPulseCycles b.tcnt]

/-! ### Every cycle lowers it -/

/-- The next frame byte, or the turnaround, takes no longer than what is left of the frame. -/
theorem attemptLeft_driveOrTurn {p : Params} (hp : p.Legal) (k : Nat) (b : Bus) :
    attemptLeft p (driveOrTurn k b) ≤ sendLeft p (b.txf.length - k) := by
  obtain ⟨-, -, -, -, hmax, -, -, hsetup, -, -⟩ := hp
  cases hk : b.txf[k]? with
  | none =>
    have hend : b.txf.length - k = 0 := Nat.sub_eq_zero_of_le (List.getElem?_eq_none_iff.mp hk)
    obtain ⟨m, hm⟩ : ∃ m, p.maxFrame = m + 1 := Nat.exists_eq_succ_of_ne_zero (by omega)
    rw [driveOrTurn_none hk, hend]
    simp only [attemptLeft, sendLeft, List.length_nil, hm, Nat.zero_add, Nat.add_sub_cancel, replyLeft_succ]
    omega
  | some c =>
    obtain ⟨hlt, -⟩ := List.getElem?_eq_some_iff.mp hk
    obtain ⟨m, hm⟩ : ∃ m, b.txf.length - k = m + 1 := Nat.exists_eq_succ_of_ne_zero (by omega)
    have hrest : b.txf.length - (k + 1) = m := by omega
    rw [driveOrTurn_some hk, hm, sendLeft_succ]
    simp only [attemptLeft, hrest, stateLeft_zero hsetup]
    omega

theorem cyclesLeft_driveOrTurn_le {p : Params} (hp : p.Legal) (k : Nat) (b : Bus) :
    cyclesLeft p (driveOrTurn k b) ≤ sendLeft p (b.txf.length - k) + retriesLeft p b := by
  have hgap : (driveOrTurn k b).fsm ≠ .gap := fun h => by
    rcases driveOrTurn_fsm k b with hf | hf <;> exact absurd (hf.symm.trans h) (by decide)
  have htxf : (driveOrTurn k b).txf = b.txf := by unfold driveOrTurn; split <;> rfl
  have hretries : retriesLeft p (driveOrTurn k b) = retriesLeft p b := by
    rw [retriesLeft, driveOrTurn_att, htxf, retriesLeft]
  rw [cyclesLeft_attempt (driveOrTurn_ne_idle k b) hgap, hretries]
  exact Nat.add_le_add_right (attemptLeft_driveOrTurn hp k b) _

/-- A failed attempt leaves its gap and the attempts after it, or ends the transfer (R223). -/
theorem cyclesLeft_failAttempt_le {s : State} (hp : s.params.Legal) (c : Status) :
    cyclesLeft s.params (failAttempt c s).bus ≤ retriesLeft s.params s.bus := by
  obtain ⟨-, -, -, -, -, -, -, -, -, hgap⟩ := hp
  by_cases hatt : s.bus.att.toNat < 3
  · have hnext : (s.bus.att + 1).toNat = s.bus.att.toNat + 1 := by rw [BitVec.toNat_add]; simp; omega
    obtain ⟨k, hk⟩ : ∃ k, 3 - s.bus.att.toNat = k + 1 := Nat.exists_eq_succ_of_ne_zero (by omega)
    have hk' : 3 - (s.bus.att.toNat + 1) = k := by omega
    rw [failAttempt_retry hatt, cyclesLeft_gap rfl]
    simp only [retriesLeft, hnext, hk, hk', stateLeft_zero hgap, Nat.succ_mul]
    omega
  · rw [failAttempt_last hatt, cyclesLeft_idle rfl]
    exact Nat.zero_le _

/-- An attempt that goes on with less of it left. -/
theorem cyclesLeft_lt_of_attemptLeft {p : Params} {b b' : Bus} (hidle : b.fsm ≠ .idle) (hgap : b.fsm ≠ .gap)
    (hidle' : b'.fsm ≠ .idle) (hgap' : b'.fsm ≠ .gap) (hretries : retriesLeft p b' = retriesLeft p b)
    (h : attemptLeft p b' < attemptLeft p b) : cyclesLeft p b' < cyclesLeft p b := by
  rw [cyclesLeft_attempt hidle hgap, cyclesLeft_attempt hidle' hgap', hretries]
  exact Nat.add_lt_add_right h _

/-- A cycle that a counted state goes on for. -/
theorem attemptLeft_countCycle {p : Params} {b : Bus} {n : Nat} (hn : stateCycles p b.fsm = some n) (hgap : b.fsm ≠ .gap)
    (hlt : b.tcnt + 1 < n) : attemptLeft p (countCycle b) < attemptLeft p b := by
  have hone := stateLeft_succ hlt
  cases hfsm : b.fsm with
  | idle | chkrdy | sStrobe | sTurn | eval => rw [hfsm] at hn; cases hn
  | gap => exact absurd hfsm hgap
  | sDrive | sWack | sWrel | rWstb | rAck | rWrel =>
    rw [hfsm] at hn
    cases hn
    simp only [attemptLeft, countCycle, hfsm]
    omega

/-- Every cycle of a running transfer leaves fewer. -/
theorem cyclesLeft_busCycle_lt {s : State} (hp : s.params.Legal) (hrun : s.bus.fsm ≠ .idle) (rdy : Bool) (d : Byte) :
    cyclesLeft s.params (busCycle rdy d s).bus < cyclesLeft s.params s.bus := by
  obtain ⟨ds, e, hrow, hcycle⟩ := busCycle_row rdy d s
  have hfail (c : Status) {b : Bus} (hgap : s.bus.fsm ≠ .gap) (hsame : retriesLeft s.params b = retriesLeft s.params s.bus) :
      cyclesLeft s.params (failAttempt c { s with bus := b }).bus < cyclesLeft s.params s.bus := by
    rw [cyclesLeft_attempt hrun hgap]
    calc cyclesLeft s.params (failAttempt c { s with bus := b }).bus
        ≤ retriesLeft s.params s.bus := hsame ▸ cyclesLeft_failAttempt_le (s := { s with bus := b }) hp c
      _ < attemptLeft s.params s.bus + retriesLeft s.params s.bus :=
          Nat.lt_add_of_pos_left (attemptLeft_pos hrun hgap)
  have ⟨_, _, _, _, _, _, hT, _, hack, _⟩ := hp
  have hwait : stateLeft s.params.fClk 0 = s.params.fClk := stateLeft_zero (by omega)
  rw [hcycle]
  cases hrow with
  | idle hfsm => exact absurd hfsm hrun
  | ready hfsm =>
    refine (cyclesLeft_driveOrTurn_le hp 0 s.bus).trans_lt ?_
    rw [cyclesLeft_attempt hrun (by rw [hfsm]; decide)]
    simp only [attemptLeft, hfsm, attemptBound_eq, Nat.sub_zero]
    omega
  | notReady hfsm => exact hfail _ (by rw [hfsm]; decide) rfl
  | counts hn hgap _ hlt =>
    exact cyclesLeft_lt_of_attemptLeft hrun hgap hrun hgap rfl (attemptLeft_countCycle hn hgap hlt)
  | timesOut hseen => exact hfail _ (fun h => by rw [h] at hseen; cases hseen) rfl
  | driven hfsm =>
    refine cyclesLeft_lt_of_attemptLeft hrun (by rw [hfsm]; decide) nofun nofun rfl ?_
    simp only [attemptLeft, countCycle, CycleEffect.apply, hfsm]
    linarith [stateLeft_pos s.params.setupCycles s.bus.tcnt]
  | strobed hfsm =>
    refine cyclesLeft_lt_of_attemptLeft hrun (by rw [hfsm]; decide) nofun nofun rfl ?_
    simp only [attemptLeft, CycleEffect.apply, hfsm, hwait]
    omega
  | acked hfsm =>
    refine cyclesLeft_lt_of_attemptLeft hrun (by rw [hfsm]; decide) nofun nofun rfl ?_
    simp only [attemptLeft, CycleEffect.apply, hfsm, hwait]
    linarith [stateLeft_pos s.params.fClk s.bus.tcnt]
  | released hfsm =>
    refine (cyclesLeft_driveOrTurn_le hp _ { countCycle s.bus with idx := s.bus.idx + 1 }).trans_lt ?_
    rw [cyclesLeft_attempt hrun (by rw [hfsm]; decide)]
    simp only [attemptLeft, countCycle, retriesLeft, hfsm]
    linarith [stateLeft_pos s.params.fClk s.bus.tcnt]
  | turned hfsm =>
    refine cyclesLeft_lt_of_attemptLeft hrun (by rw [hfsm]; decide) nofun nofun rfl ?_
    simp only [attemptLeft, CycleEffect.apply, hfsm, hwait]
    omega
  | sampled hfsm =>
    refine cyclesLeft_lt_of_attemptLeft hrun (by rw [hfsm]; decide) nofun nofun rfl ?_
    simp only [attemptLeft, CycleEffect.apply, hfsm, stateLeft_zero hack, List.length_append, List.length_singleton]
    linarith [stateLeft_pos s.params.fClk s.bus.tcnt]
  | pulsed hfsm =>
    refine cyclesLeft_lt_of_attemptLeft hrun (by rw [hfsm]; decide) nofun nofun rfl ?_
    simp only [attemptLeft, CycleEffect.apply, hfsm, hwait]
    linarith [stateLeft_pos s.params.ackPulseCycles s.bus.tcnt]
  | received hfsm =>
    refine cyclesLeft_lt_of_attemptLeft hrun (by rw [hfsm]; decide) nofun nofun rfl ?_
    simp only [attemptLeft, CycleEffect.apply, countCycle, hfsm]
    linarith [stateLeft_pos s.params.fClk s.bus.tcnt, replyLeft_pos s.params (s.params.maxFrame - s.bus.rxr.length)]
  | nextByte hfsm _ hdone =>
    refine cyclesLeft_lt_of_attemptLeft hrun (by rw [hfsm]; decide) nofun nofun rfl ?_
    have hlt : s.bus.rxr.length < s.params.maxFrame := Nat.lt_of_not_le fun hle => by
      simp [replyDone_iff.mpr (.inr hle)] at hdone
    obtain ⟨m, hm⟩ : ∃ m, s.params.maxFrame - s.bus.rxr.length = m + 1 := Nat.exists_eq_succ_of_ne_zero (by omega)
    have hm' : s.params.maxFrame - (s.bus.rxr.length + 1) = m := by omega
    simp only [attemptLeft, CycleEffect.apply, hfsm, hwait, hm, hm', replyLeft_succ]
    linarith [stateLeft_pos s.params.fClk s.bus.tcnt]
  | relayed hfsm =>
    rw [cyclesLeft_attempt hrun (by rw [hfsm]; decide), cyclesLeft_idle rfl]
    exact Nat.add_pos_left (attemptLeft_pos hrun (by rw [hfsm]; decide)) _
  | rejected hfsm => exact hfail _ (by rw [hfsm]; decide) rfl
  | gapCounts hfsm hlt =>
    have hone := stateLeft_succ hlt
    rw [CycleEffect.apply, cyclesLeft_gap hfsm, cyclesLeft_gap (b := idleLines (countCycle s.bus)) hfsm]
    simp only [idleLines, countCycle, retriesLeft]
    omega
  | gapEnds hfsm =>
    rw [CycleEffect.apply, cyclesLeft_gap hfsm,
      cyclesLeft_attempt (b := { idleLines (countCycle s.bus) with fsm := .chkrdy }) nofun nofun]
    simp only [attemptLeft, idleLines, countCycle, retriesLeft]
    linarith [stateLeft_pos s.params.retryGapCycles s.bus.tcnt]

/-- A transfer ends within the cycles it has left. -/
theorem busRun_ends {zs : List (Bool × Byte)} {s : State} (hp : s.params.Legal)
    (hlen : cyclesLeft s.params s.bus ≤ zs.length) :
    ∃ n, n ≤ cyclesLeft s.params s.bus ∧ (busRun (zs.take n) s).bus.fsm = .idle := by
  by_cases hidle : s.bus.fsm = .idle
  · exact ⟨0, Nat.zero_le _, hidle⟩
  induction zs generalizing s with
  | nil =>
    have hlt := cyclesLeft_busCycle_lt hp hidle true 0
    rw [List.length_nil] at hlen
    omega
  | cons z zs ih =>
    have hlt := cyclesLeft_busCycle_lt hp hidle z.1 z.2
    have hparams := busCycle_params z.1 z.2 s
    rw [List.length_cons] at hlen
    by_cases hend : (busCycle z.1 z.2 s).bus.fsm = .idle
    · exact ⟨1, by omega, hend⟩
    · obtain ⟨n, hn, hrest⟩ := ih (hparams ▸ hp) (by rw [hparams]; omega) hend
      rw [hparams] at hn
      exact ⟨n + 1, by omega, hrest⟩

/-- A transfer that starts has its whole bound left (R233). -/
theorem cyclesLeft_start {p : Params} {b : Bus} (hfsm : b.fsm = .chkrdy) (hatt : b.att = 1) :
    cyclesLeft p b = xcvBound p b.txf.length := by
  rw [cyclesLeft_attempt (by rw [hfsm]; decide) (by rw [hfsm]; decide)]
  simp only [attemptLeft, hfsm, retriesLeft, hatt, xcvBound, show (1 : BitVec 2).toNat = 1 from rfl]
  omega

/-- Settles O49: the bound is what is left when the transfer starts (`cyclesLeft_start`). -/
theorem xcvEndsWithinItsBound : Obligations.XcvEndsWithinItsBound := by
  unfold Obligations.XcvEndsWithinItsBound
  intro f zs s s0 hp hexec hlen
  rw [exec_xcv] at hexec
  cases hexec
  rw [← cyclesLeft_start (b := { s.bus with fsm := .chkrdy, txf := f, att := 1, cause := 0x00 }) rfl rfl] at hlen ⊢
  exact busRun_ends (s := { s with bus := { s.bus with fsm := .chkrdy, txf := f, att := 1, cause := 0x00 } }) hp hlen

end Sys2Proof.Machine

/-! The two readings of `XCV` (44_bus_transport.md R230, R240). `transferRest` is what the pseudocode still does from a
state of the bus controller; a cycle makes the draws of its row and leaves the rest of the pseudocode to the next state
(`Row.transferRest_eq`). One reading of that is the refinement, the other that every sequence of draws is realised. -/

namespace Sys2Proof.Machine

/-! ### The pseudocode from inside an attempt -/

/-- The rest of an attempt, as a function of the peer's draws. -/
abbrev AttemptRest := List Draw → Option (Attempt × List Draw)

/-- A `PeerWait`, and the rest of the attempt once it has seen its condition. -/
def afterWait (rest : AttemptRest) : AttemptRest
  | .wait true :: ds => rest ds
  | .wait false :: ds => some (.failed .transportTimeout, ds)
  | _ => none

/-- The byte sampled in `R_WSTB`, and the rest of the attempt with it. -/
def afterSample (rest : Byte → AttemptRest) : AttemptRest
  | .sample x :: ds => rest x ds
  | _ => none

/-- The receive loop with `rxr` received so far, and the reply check. -/
def receiveRest (p : Params) (rxr : List Byte) : AttemptRest := fun ds =>
  match receiveDraws p rxr ds with
  | none => none
  | some (none, ds) => some (.failed .transportTimeout, ds)
  | some (some z, ds) => some (judgeReply z, ds)

/-- The send loop with `f` still to send, and what follows it. -/
def sendRest (p : Params) (f : List Byte) : AttemptRest := fun ds =>
  match sendDraws f ds with
  | none => none
  | some (false, ds) => some (.failed .transportTimeout, ds)
  | some (true, ds) => receiveRest p [] ds

/-- A reply byte received: the reply check of a complete reply, else the receive loop (R222). -/
def afterReplyByte (p : Params) (rxr : List Byte) : AttemptRest := fun ds =>
  if replyDone p rxr then some (judgeReply rxr, ds) else receiveRest p rxr ds

theorem attemptDraws_ready (p : Params) (f : List Byte) (ds : List Draw) :
    attemptDraws p f (.ready true :: ds) = sendRest p f ds := rfl

theorem sendRest_nil (p : Params) (ds : List Draw) : sendRest p [] ds = receiveRest p [] ds := by
  simp [sendRest, sendDraws]

/-- A byte of the frame takes two waits (R216). -/
theorem sendRest_cons (p : Params) (c : Byte) (f : List Byte) :
    sendRest p (c :: f) = afterWait (afterWait (sendRest p f)) := by
  funext ds
  match ds with
  | .wait true :: .wait true :: ds => simp only [sendRest, sendDraws, afterWait]
  | .wait true :: .wait false :: ds | .wait false :: ds => simp only [sendRest, sendDraws, afterWait]
  | [] | .ready _ :: _ | .sample _ :: _ | [.wait true] | .wait true :: .ready _ :: _ | .wait true :: .sample _ :: _ =>
    simp only [sendRest, sendDraws, afterWait]

/-- A byte of the reply takes a wait, its sample and another wait (R220). -/
theorem receiveRest_eq (p : Params) (rxr : List Byte) :
    receiveRest p rxr = afterWait (afterSample fun x => afterWait (afterReplyByte p (rxr ++ [x]))) := by
  funext ds
  match ds with
  | .wait true :: .sample x :: .wait true :: ds =>
    by_cases hdone : replyDone p (rxr ++ [x]) = true <;>
      simp only [receiveRest, receiveDraws, afterWait, afterSample, afterReplyByte, hdone, if_true, Bool.false_eq_true,
        if_false]
  | .wait true :: .sample x :: .wait false :: ds | .wait false :: ds =>
    simp only [receiveRest, receiveDraws, afterWait, afterSample]
  | [] | .ready _ :: _ | .sample _ :: _ | [.wait true] | .wait true :: .ready _ :: _ | .wait true :: .wait _ :: _
  | [.wait true, .sample _] | .wait true :: .sample _ :: .ready _ :: _ | .wait true :: .sample _ :: .sample _ :: _ =>
    simp only [receiveRest, receiveDraws, afterWait, afterSample]

/-- What the attempt of a state still does; an attempt that has not begun does all of it. -/
def attemptRest (p : Params) (b : Bus) : AttemptRest :=
  match b.fsm with
  | .idle => fun _ => none
  | .gap | .chkrdy => attemptDraws p b.txf
  | .sDrive | .sStrobe | .sWack => afterWait (afterWait (sendRest p (b.txf.drop (b.idx + 1))))
  | .sWrel => afterWait (sendRest p (b.txf.drop (b.idx + 1)))
  | .sTurn | .rWstb => receiveRest p b.rxr
  | .rAck | .rWrel => afterWait (afterReplyByte p b.rxr)
  | .eval => fun ds => some (judgeReply b.rxr, ds)

/-- Going on with byte `k` of the frame is the send loop from there. -/
theorem attemptRest_driveOrTurn (p : Params) (k : Nat) (b : Bus) :
    attemptRest p (driveOrTurn k b) = sendRest p (b.txf.drop k) := by
  cases hk : b.txf[k]? with
  | none =>
    rw [driveOrTurn_none hk, List.drop_eq_nil_of_le (List.getElem?_eq_none_iff.mp hk)]
    funext ds
    exact (sendRest_nil p ds).symm
  | some c =>
    obtain ⟨hlt, hc⟩ := List.getElem?_eq_some_iff.mp hk
    rw [driveOrTurn_some hk, List.drop_eq_getElem_cons hlt, sendRest_cons]
    rfl

/-! ### The pseudocode from inside a transfer -/

/-- A timeout among the failures (R231). -/
def timeoutsOf (c : Status) : Nat := if c = .transportTimeout then 1 else 0

/-- What follows the end of attempt `b.att`, with `n` timeouts before it: the response, or the attempts after it. -/
def afterAttempt (p : Params) (b : Bus) (n : Nat) : Option (Attempt × List Draw) → Option (List Byte × Nat × List Draw)
  | none => none
  | some (.reply z, ds) => some (statusCode .ok :: indexByte b.att.toNat :: b.cause :: lenList z, n, ds)
  | some (.failed c, ds) => attemptsDraws p b.txf (3 - b.att.toNat) (b.att.toNat + 1) (statusCode c) (n + timeoutsOf c) ds

/-- What the transfer of a state still does: the response, the timeouts in all and the draws left, from `n` timeouts
before; at rest it has the response it gave. -/
def transferRest (s : State) (n : Nat) (ds : List Draw) : Option (List Byte × Nat × List Draw) :=
  match s.bus.fsm with
  | .idle => some (s.cp.rsp, n, ds)
  | _ => afterAttempt s.params s.bus n (attemptRest s.params s.bus ds)

theorem transferRest_idle {s : State} (h : s.bus.fsm = .idle) (n : Nat) (ds : List Draw) :
    transferRest s n ds = some (s.cp.rsp, n, ds) := by rw [transferRest, h]

theorem transferRest_running {s : State} (h : s.bus.fsm ≠ .idle) (n : Nat) (ds : List Draw) :
    transferRest s n ds = afterAttempt s.params s.bus n (attemptRest s.params s.bus ds) := by
  unfold transferRest
  split
  · next hidle => exact absurd hidle h
  · rfl

/-- The attempts from number `b.att` on (R230). -/
theorem attemptsDraws_eq {p : Params} {b : Bus} (n : Nat) (ds : List Draw) :
    attemptsDraws p b.txf (3 - b.att.toNat + 1) b.att.toNat b.cause n ds =
      afterAttempt p b n (attemptDraws p b.txf ds) := by
  rw [attemptsDraws]
  cases attemptDraws p b.txf ds with
  | none => rfl
  | some r =>
    obtain ⟨reply | c, ds⟩ := r
    · rfl
    · simp only [afterAttempt, timeoutsOf]
      split <;> rfl

/-- The failure action is what the pseudocode does after a failed attempt (R223, R226, R230). -/
theorem transferRest_failAttempt (c : Status) (s : State) (n : Nat) (ds : List Draw) :
    transferRest (failAttempt c s) (n + timeoutsOf c) ds = afterAttempt s.params s.bus n (some (.failed c, ds)) := by
  by_cases hatt : s.bus.att.toNat < 3
  · have hnext : (s.bus.att + 1).toNat = s.bus.att.toNat + 1 := by rw [BitVec.toNat_add]; simp; omega
    have hleft : 3 - s.bus.att.toNat = 3 - (s.bus.att + 1).toNat + 1 := by omega
    have hafter := attemptsDraws_eq (p := s.params) (b := (failAttempt c s).bus) (n + timeoutsOf c) ds
    have hparams : (logFailure c s).params = s.params := logFailure_params c s
    have hgap : (failAttempt c s).bus.fsm ≠ .idle := by rw [failAttempt_retry hatt]; exact nofun
    rw [transferRest_running hgap, afterAttempt, hleft, ← hnext]
    rw [failAttempt_retry hatt] at hafter ⊢
    simp only [hparams]
    exact hafter.symm
  · have hlast : s.bus.att = 3 := BitVec.eq_of_toNat_eq (by have := s.bus.att.isLt; simp; omega)
    rw [failAttempt_last hatt, transferRest_idle rfl, afterAttempt, hlast]
    rfl

/-! ### A cycle as a step of the pseudocode -/

theorem satAdd_zero (c : BitVec 16) : satAdd c 0 = c := by
  have := c.isLt
  rw [satAdd, Nat.add_zero, Nat.min_eq_right (by omega), BitVec.ofNat_toNat, BitVec.setWidth_eq]

/-- From `s` to `t` the peer makes the draws `draws`: they are the beginning of what the pseudocode of `s` asks for, the
rest is that of `t`, and the timeouts among them are counted. -/
def DrawsStep (s : State) (draws : List Draw) (t : State) : Prop :=
  ∃ k, t.timeoutCnt = satAdd s.timeoutCnt k ∧ ∀ n ds, transferRest s n (draws ++ ds) = transferRest t (n + k) ds

/-- A cycle that goes on with the attempt. -/
theorem DrawsStep.goes {s : State} {b : Bus} {draws : List Draw} (hidle : s.bus.fsm ≠ .idle) (hidle' : b.fsm ≠ .idle)
    (hatt : b.att = s.bus.att) (hcause : b.cause = s.bus.cause) (htxf : b.txf = s.bus.txf)
    (hrest : ∀ ds, attemptRest s.params s.bus (draws ++ ds) = attemptRest s.params b ds) :
    DrawsStep s draws { s with bus := b } := by
  refine ⟨0, (satAdd_zero _).symm, fun n ds => ?_⟩
  rw [transferRest_running hidle, transferRest_running (s := { s with bus := b }) hidle', hrest]
  cases attemptRest s.params b ds with
  | none => rfl
  | some r =>
    obtain ⟨reply | c, ds⟩ := r <;> simp only [afterAttempt, hatt, hcause, htxf, Nat.add_zero]

/-- A cycle that ends the attempt in failure. -/
theorem DrawsStep.fails {s : State} {b : Bus} {c : Status} {draws : List Draw} (hidle : s.bus.fsm ≠ .idle)
    (hatt : b.att = s.bus.att) (htxf : b.txf = s.bus.txf)
    (hrest : ∀ ds, attemptRest s.params s.bus (draws ++ ds) = some (.failed c, ds)) :
    DrawsStep s draws (failAttempt c { s with bus := b }) := by
  refine ⟨timeoutsOf c, ?_, fun n ds => ?_⟩
  · rw [failAttempt_timeoutCnt, timeoutsOf]
    split
    · rfl
    · exact (satAdd_zero _).symm
  · rw [transferRest_running hidle, hrest, transferRest_failAttempt]
    simp only [afterAttempt, hatt, htxf]

theorem driveOrTurn_cause (k : Nat) (b : Bus) : (driveOrTurn k b).cause = b.cause := by
  unfold driveOrTurn; split <;> rfl

theorem driveOrTurn_txf (k : Nat) (b : Bus) : (driveOrTurn k b).txf = b.txf := by
  unfold driveOrTurn; split <;> rfl

/-- Each wait state is in a wait of the pseudocode (R215, R230). -/
theorem attemptRest_wait (p : Params) {b : Bus} {rdy seen : Bool} (h : waitSeen b.fsm rdy = some seen) :
    ∃ rest, attemptRest p b = afterWait rest := by
  cases hfsm : b.fsm with
  | sWack | sWrel | rWrel => exact ⟨_, by rw [attemptRest, hfsm]⟩
  | rWstb => exact ⟨_, by rw [attemptRest, hfsm]; exact receiveRest_eq ..⟩
  | _ => rw [hfsm] at h; cases h

/-- The end of a transfer with a reply gives the response of R230. -/
theorem DrawsStep.relays {s : State} (hfsm : s.bus.fsm = .eval) (hjudge : judgeReply s.bus.rxr = .reply s.bus.rxr) :
    DrawsStep s [] (CycleEffect.relays.apply s) := by
  have hatt : indexByte s.bus.att.toNat = s.bus.att.setWidth 8 := BitVec.ofNat_toNat ..
  refine ⟨0, (satAdd_zero _).symm, fun n ds => ?_⟩
  rw [transferRest_running (by rw [hfsm]; decide), transferRest_idle (s := CycleEffect.relays.apply s) rfl, attemptRest,
    hfsm]
  simp only [List.nil_append, hjudge, afterAttempt, hatt]
  rfl

/-- Every cycle of a running transfer is a step of the pseudocode, row by row. -/
theorem Row.drawsStep {s : State} {rdy : Bool} {d : Byte} {draws : List Draw} {e : CycleEffect}
    (h : Row s.params rdy d s.bus draws e) (hidle : s.bus.fsm ≠ .idle) : DrawsStep s draws (e.apply s) := by
  cases h with
  | idle hfsm => exact absurd hfsm hidle
  | ready hfsm =>
    refine .goes hidle (driveOrTurn_ne_idle _ _) (driveOrTurn_att ..) (driveOrTurn_cause ..) (driveOrTurn_txf ..)
      fun ds => ?_
    rw [attemptRest_driveOrTurn, attemptRest, hfsm]
    exact attemptDraws_ready ..
  | notReady hfsm => exact .fails hidle rfl rfl fun ds => by rw [attemptRest, hfsm]; rfl
  | counts => exact .goes hidle hidle rfl rfl rfl fun ds => rfl
  | timesOut hseen =>
    obtain ⟨rest, hrest⟩ := attemptRest_wait s.params hseen
    exact .fails (b := countCycle s.bus) hidle rfl rfl fun ds => by rw [hrest]; rfl
  | driven hfsm | strobed hfsm | turned hfsm | pulsed hfsm =>
    exact .goes hidle nofun rfl rfl rfl fun ds => by rw [attemptRest, hfsm]; rfl
  | acked hfsm => exact .goes hidle nofun rfl rfl rfl fun ds => by rw [attemptRest, hfsm]; rfl
  | released hfsm =>
    refine .goes hidle (driveOrTurn_ne_idle _ _) (driveOrTurn_att ..) (driveOrTurn_cause ..) (driveOrTurn_txf ..)
      fun ds => ?_
    rw [attemptRest_driveOrTurn, attemptRest, hfsm]
    rfl
  | sampled hfsm =>
    exact .goes hidle nofun rfl rfl rfl fun ds => by rw [attemptRest, hfsm, receiveRest_eq]; rfl
  | received hfsm _ hdone =>
    exact .goes hidle nofun rfl rfl rfl fun ds => by
      rw [attemptRest, hfsm]
      exact if_pos hdone
  | nextByte hfsm _ hdone =>
    exact .goes hidle nofun rfl rfl rfl fun ds => by
      rw [attemptRest, hfsm]
      exact if_neg (Bool.eq_false_iff.mp hdone)
  | relayed hfsm hjudge => exact .relays hfsm hjudge
  | rejected hfsm hjudge => exact .fails hidle rfl rfl fun ds => by rw [attemptRest, hfsm, ← hjudge]; rfl
  | gapCounts => exact .goes hidle hidle rfl rfl rfl fun ds => rfl
  | gapEnds hfsm => exact .goes hidle nofun rfl rfl rfl fun ds => by rw [attemptRest, hfsm]; rfl

theorem busCycle_drawsStep {s : State} (hidle : s.bus.fsm ≠ .idle) (rdy : Bool) (d : Byte) :
    ∃ draws, DrawsStep s draws (busCycle rdy d s) := by
  obtain ⟨draws, e, hrow, hcycle⟩ := busCycle_row rdy d s
  exact ⟨draws, hcycle ▸ hrow.drawsStep hidle⟩

/-! ### Refinement -/

/-- A run that ends a transfer made the draws the pseudocode asks for and gave its response. -/
theorem exists_draws_of_busRun {zs : List (Bool × Byte)} {s : State}
    (hrun : ∀ k, k < zs.length → (busRun (zs.take k) s).bus.fsm ≠ .idle) (hend : (busRun zs s).bus.fsm = .idle) :
    ∃ draws k, (busRun zs s).timeoutCnt = satAdd s.timeoutCnt k ∧
      ∀ n, transferRest s n draws = some ((busRun zs s).cp.rsp, n + k, []) := by
  induction zs generalizing s with
  | nil => exact ⟨[], 0, (satAdd_zero _).symm, fun n => transferRest_idle hend n []⟩
  | cons z zs ih =>
    have hidle : s.bus.fsm ≠ .idle := hrun 0 (Nat.succ_pos _)
    obtain ⟨first, k, hcnt, hfirst⟩ := busCycle_drawsStep hidle z.1 z.2
    obtain ⟨draws, k', hcnt', hrest⟩ := ih (s := busCycle z.1 z.2 s)
      (fun j hj => hrun (j + 1) (Nat.succ_lt_succ hj)) hend
    refine ⟨first ++ draws, k + k', ?_, fun n => ?_⟩
    · rw [busRun_cons, hcnt', hcnt, satAdd_satAdd]
    · rw [hfirst, hrest, busRun_cons, Nat.add_assoc]

/-- The pseudocode of an `XCV` is what its starting state still does. -/
theorem attemptsDraws_start {f : List Byte} {s s0 : State} (h : exec (.xcv f) s = .next s0) (ds : List Draw) :
    attemptsDraws s.params f Config.maxAttempts 1 0x00 0 ds = transferRest s0 0 ds := by
  rw [exec_xcv] at h
  cases h
  exact attemptsDraws_eq (b := { s.bus with fsm := .chkrdy, txf := f, att := 1, cause := 0x00 }) 0 ds

theorem xcvDraws_eq_some_iff {p : Params} {f : List Byte} {ds : List Draw} {rsp : List Byte} {n : Nat} :
    xcvDraws p f ds = some (rsp, n) ↔ attemptsDraws p f Config.maxAttempts 1 0x00 0 ds = some (rsp, n, []) := by
  unfold xcvDraws
  split
  · next h => rw [h]; simp
  · next hne => exact iff_of_false nofun (hne _ _)

/-- Settles O50: the draws of a run are those of its cycles' rows (`exists_draws_of_busRun`). -/
theorem cyclesRefineTheTransaction : Obligations.CyclesRefineTheTransaction := by
  unfold Obligations.CyclesRefineTheTransaction
  intro f zs s s0 hexec hrun hend
  obtain ⟨draws, k, hcnt, hrest⟩ := exists_draws_of_busRun hrun hend
  have hsame : s0.timeoutCnt = s.timeoutCnt := by rw [exec_xcv] at hexec; cases hexec; rfl
  refine ⟨draws, k, xcvDraws_eq_some_iff.mpr ?_, hsame ▸ hcnt⟩
  rw [attemptsDraws_start hexec, hrest, Nat.zero_add]

/-! ### Realisation -/

/-- The draws a wait accepts begin with its outcome. -/
theorem exists_of_afterWait {rest : AttemptRest} {ds : List Draw} (h : afterWait rest ds ≠ none) :
    (∃ ds', ds = .wait false :: ds') ∨ ∃ ds', ds = .wait true :: ds' ∧ rest ds' ≠ none := by
  match ds with
  | .wait false :: ds => exact .inl ⟨ds, rfl⟩
  | .wait true :: ds => exact .inr ⟨ds, rfl, h⟩
  | [] | .ready _ :: _ | .sample _ :: _ => exact absurd rfl h

/-- The cycle's draws are the beginning of `ds`, for some inputs of the peer. -/
def RowDraws (p : Params) (b : Bus) (ds : List Draw) : Prop :=
  ∃ rdy d draws e ds', Row p rdy d b draws e ∧ ds = draws ++ ds'

/-- A wait that is to time out has a row in each of its cycles, with the draw in the last. -/
theorem rowDraws_of_timeout {p : Params} {b : Bus} {rdy : Bool} (hseen : waitSeen b.fsm rdy = some false)
    (ds : List Draw) : RowDraws p b (.wait false :: ds) := by
  rcases Nat.lt_or_ge (b.tcnt + 1) p.fClk with hlt | hle
  · have hgap : b.fsm ≠ .gap := fun h => by rw [h] at hseen; cases hseen
    exact ⟨rdy, 0, _, _, _, .counts (stateCycles_of_wait hseen) hgap (by simp [hseen]) hlt, rfl⟩
  · exact ⟨rdy, 0, _, _, _, .timesOut hseen hle, rfl⟩

/-- For draws that the rest of an attempt accepts, the peer has inputs that make the first of them in this cycle, or none
while the state only counts. -/
theorem rowDraws_of_attemptRest {p : Params} {b : Bus} {ds : List Draw} (hidle : b.fsm ≠ .idle)
    (h : attemptRest p b ds ≠ none) : RowDraws p b ds := by
  cases hfsm : b.fsm with
  | idle => exact absurd hfsm hidle
  | chkrdy =>
    rw [attemptRest, hfsm] at h
    match ds with
    | .ready true :: ds => exact ⟨true, 0, _, _, ds, .ready hfsm rfl, rfl⟩
    | .ready false :: ds => exact ⟨false, 0, _, _, ds, .notReady hfsm rfl, rfl⟩
    | [] | .wait _ :: _ | .sample _ :: _ => exact absurd rfl h
  | sDrive =>
    rcases Nat.lt_or_ge (b.tcnt + 1) p.setupCycles with hlt | hle
    · exact ⟨true, 0, _, _, ds, .counts (by rw [hfsm]; rfl) (by simp [hfsm]) (by simp [hfsm, waitSeen]) hlt, rfl⟩
    · exact ⟨true, 0, _, _, ds, .driven hfsm hle, rfl⟩
  | sStrobe => exact ⟨true, 0, _, _, ds, .strobed hfsm, rfl⟩
  | sWack =>
    rw [attemptRest, hfsm] at h
    rcases exists_of_afterWait h with ⟨ds, rfl⟩ | ⟨ds, rfl, -⟩
    · exact rowDraws_of_timeout (rdy := true) (by rw [hfsm]; rfl) ds
    · exact ⟨false, 0, _, _, ds, .acked hfsm rfl, rfl⟩
  | sWrel =>
    rw [attemptRest, hfsm] at h
    rcases exists_of_afterWait h with ⟨ds, rfl⟩ | ⟨ds, rfl, -⟩
    · exact rowDraws_of_timeout (rdy := false) (by rw [hfsm]; rfl) ds
    · exact ⟨true, 0, _, _, ds, .released hfsm rfl, rfl⟩
  | sTurn => exact ⟨true, 0, _, _, ds, .turned hfsm, rfl⟩
  | rWstb =>
    rw [attemptRest, hfsm, receiveRest_eq] at h
    rcases exists_of_afterWait h with ⟨ds, rfl⟩ | ⟨ds, rfl, hsample⟩
    · exact rowDraws_of_timeout (rdy := true) (by rw [hfsm]; rfl) ds
    · match ds with
      | .sample x :: ds => exact ⟨false, x, _, _, ds, .sampled hfsm rfl, rfl⟩
      | [] | .ready _ :: _ | .wait _ :: _ => exact absurd rfl hsample
  | rAck =>
    rcases Nat.lt_or_ge (b.tcnt + 1) p.ackPulseCycles with hlt | hle
    · exact ⟨true, 0, _, _, ds, .counts (by rw [hfsm]; rfl) (by simp [hfsm]) (by simp [hfsm, waitSeen]) hlt, rfl⟩
    · exact ⟨true, 0, _, _, ds, .pulsed hfsm hle, rfl⟩
  | rWrel =>
    rw [attemptRest, hfsm] at h
    rcases exists_of_afterWait h with ⟨ds, rfl⟩ | ⟨ds, rfl, -⟩
    · exact rowDraws_of_timeout (rdy := false) (by rw [hfsm]; rfl) ds
    · cases hdone : replyDone p b.rxr with
      | true => exact ⟨true, 0, _, _, ds, .received hfsm rfl hdone, rfl⟩
      | false => exact ⟨true, 0, _, _, ds, .nextByte hfsm rfl hdone, rfl⟩
  | eval =>
    cases hjudge : judgeReply b.rxr with
    | reply z =>
      obtain ⟨rfl, -⟩ := judgeReply_eq_reply_iff.mp hjudge
      exact ⟨true, 0, _, _, ds, .relayed hfsm hjudge, rfl⟩
    | failed c => exact ⟨true, 0, _, _, ds, .rejected hfsm hjudge, rfl⟩
  | gap =>
    rcases Nat.lt_or_ge (b.tcnt + 1) p.retryGapCycles with hlt | hle
    · exact ⟨true, 0, _, _, ds, .gapCounts hfsm hlt, rfl⟩
    · exact ⟨true, 0, _, _, ds, .gapEnds hfsm hle, rfl⟩

/-- Draws that the pseudocode of a transfer accepts whole are made by some run to its end: by induction on the cycles
the transfer has left (R233). -/
theorem exists_busRun_of_draws {s : State} (hp : s.params.Legal) {n m : Nat} {ds : List Draw} {rsp : List Byte}
    (h : transferRest s n ds = some (rsp, m, [])) :
    ∃ zs, (∀ k, k < zs.length → (busRun (zs.take k) s).bus.fsm ≠ .idle) ∧ (busRun zs s).bus.fsm = .idle ∧
      (busRun zs s).cp.rsp = rsp ∧ ∃ k, m = n + k ∧ (busRun zs s).timeoutCnt = satAdd s.timeoutCnt k := by
  by_cases hidle : s.bus.fsm = .idle
  · rw [transferRest_idle hidle] at h
    cases h
    exact ⟨[], nofun, hidle, rfl, 0, rfl, (satAdd_zero _).symm⟩
  have haccepts : attemptRest s.params s.bus ds ≠ none := fun hnone => by
    rw [transferRest_running hidle, hnone] at h
    cases h
  obtain ⟨rdy, d, draws, e, ds', hrow, rfl⟩ := rowDraws_of_attemptRest hidle haccepts
  have hlt := cyclesLeft_busCycle_lt hp hidle rdy d
  obtain ⟨k, hcnt, hstep⟩ := hrow.drawsStep hidle
  rw [hstep, ← hrow.busCycle_eq] at h
  rw [← hrow.busCycle_eq] at hcnt
  have hparams := busCycle_params rdy d s
  obtain ⟨zs, hrun, hend, hrsp, k', hm, hcnt'⟩ := exists_busRun_of_draws (hparams ▸ hp) h
  refine ⟨(rdy, d) :: zs, fun j hj => ?_, hend, hrsp, k + k', by omega, ?_⟩
  · cases j with
    | zero => exact hidle
    | succ j => exact hrun j (Nat.lt_of_succ_lt_succ hj)
  · rw [busRun_cons, hcnt', hcnt, satAdd_satAdd]
termination_by cyclesLeft s.params s.bus
decreasing_by rw [busCycle_params]; exact hlt

/-- Settles O51: from the starting state a run makes the draws one after the other (`exists_busRun_of_draws`). -/
theorem everyDrawSequenceIsRealised : Obligations.EveryDrawSequenceIsRealised := by
  unfold Obligations.EveryDrawSequenceIsRealised
  intro f ds rsp n s s0 hp hdraws hexec
  have hrest := (attemptsDraws_start hexec ds).symm.trans (xcvDraws_eq_some_iff.mp hdraws)
  obtain ⟨zs, hrun, hend, hrsp, k, hk, hcnt⟩ := exists_busRun_of_draws (exec_params hexec ▸ hp) hrest
  have hsame : s0.timeoutCnt = s.timeoutCnt := by rw [exec_xcv] at hexec; cases hexec; rfl
  obtain rfl : n = k := hk.trans (Nat.zero_add k)
  exact ⟨zs, hrun, hend, hrsp, hsame ▸ hcnt⟩

end Sys2Proof.Machine

/-! No state of one `XCV` influences a later one (44_bus_transport.md R236): `SameBus` relates two controllers that agree on
every register a later row still reads before it is written, and a cycle with the same inputs keeps it, row by row. -/

namespace Sys2Proof.Machine

/-- The states from the turnaround to the reply check, in which `rxr` is the reply of this attempt (R219, R220). -/
def receiving : Fsm → Bool
  | .sTurn | .rWstb | .rAck | .rWrel | .eval => true
  | _ => false

/-- Two controllers of the same state, lines and transfer, whatever their other registers have left over: the driven
value counts while it is driven, the index while a frame is sent, `tcnt` in the counting states, `rxr` while a reply is
received. -/
structure SameBus (p : Params) (b b' : Bus) : Prop where
  fsm : b'.fsm = b.fsm
  clkO : b'.clkO = b.clkO
  dOe : b'.dOe = b.dOe
  att : b'.att = b.att
  cause : b'.cause = b.cause
  txf : b'.txf = b.txf
  dO : b.dOe = true → b'.dO = b.dO
  idx : sending b.fsm = true → b'.idx = b.idx
  tcnt : (stateCycles p b.fsm).isSome = true → b'.tcnt = b.tcnt
  rxr : receiving b.fsm = true → b'.rxr = b.rxr

theorem SameBus.driveOrTurn {p : Params} {b b' : Bus} (hclk : b'.clkO = b.clkO) (hatt : b'.att = b.att)
    (hcause : b'.cause = b.cause) (htxf : b'.txf = b.txf) (k : Nat) :
    SameBus p (driveOrTurn k b) (driveOrTurn k b') := by
  cases hk : b.txf[k]? with
  | none =>
    rw [driveOrTurn_none hk, driveOrTurn_none (htxf ▸ hk)]
    exact ⟨rfl, hclk, rfl, hatt, hcause, htxf, nofun, nofun, nofun, fun _ => rfl⟩
  | some c =>
    rw [driveOrTurn_some hk, driveOrTurn_some (htxf ▸ hk)]
    exact ⟨rfl, hclk, rfl, hatt, hcause, htxf, fun _ => rfl, fun _ => rfl, fun _ => rfl, nofun⟩

/-- Two blocks in the same transfer with the same pending response. -/
structure SameTransfer (s t : State) : Prop where
  params : t.params = s.params
  rsp : t.cp.rsp = s.cp.rsp
  bus : SameBus s.params s.bus t.bus

theorem SameTransfer.failAttempt {s t : State} (h : SameTransfer s t) (c : Status) {b b' : Bus} (hatt : b'.att = b.att)
    (htxf : b'.txf = b.txf) :
    SameTransfer (failAttempt c { s with bus := b }) (failAttempt c { t with bus := b' }) := by
  by_cases hlast : b.att.toNat < 3
  · rw [failAttempt_retry (s := { s with bus := b }) hlast, failAttempt_retry (s := { t with bus := b' }) (hatt ▸ hlast)]
    refine ⟨?_, ?_, rfl, rfl, rfl, congrArg (· + 1) hatt, rfl, htxf, nofun, nofun, fun _ => rfl, nofun⟩
    · simpa only [logFailure_params] using h.params
    · simpa only [logFailure_cp] using h.rsp
  · rw [failAttempt_last (s := { s with bus := b }) hlast, failAttempt_last (s := { t with bus := b' }) (hatt ▸ hlast)]
    refine ⟨?_, ?_, rfl, rfl, rfl, hatt, rfl, htxf, nofun, nofun, nofun, nofun⟩
    · simpa only [logFailure_params] using h.params
    · simp only [hatt]

/-- The same inputs lead the same transfer through the same rows. -/
theorem SameTransfer.busCycle {s t : State} (h : SameTransfer s t) (rdy : Bool) (d : Byte) :
    SameTransfer (busCycle rdy d s) (busCycle rdy d t) := by
  obtain ⟨draws, e, hrow, hcycle⟩ := busCycle_row rdy d s
  obtain ⟨hparams, hrsp, hb⟩ := id h
  have hgoes {b b' : Bus} {draws' : List Draw} (hrow' : Row t.params rdy d t.bus draws' (.goes b'))
      (hsame : SameBus s.params b b') :
      SameTransfer ((CycleEffect.goes b).apply s) (Machine.busCycle rdy d t) := by
    rw [hrow'.busCycle_eq]
    exact ⟨hparams, hrsp, hsame⟩
  have hfails {c : Status} {b b' : Bus} {draws' : List Draw} (hrow' : Row t.params rdy d t.bus draws' (.fails c b'))
      (hatt : b'.att = b.att) (htxf : b'.txf = b.txf) :
      SameTransfer ((CycleEffect.fails c b).apply s) (Machine.busCycle rdy d t) := by
    rw [hrow'.busCycle_eq]
    exact h.failAttempt c hatt htxf
  have htcnt {f : Fsm} (hfsm : s.bus.fsm = f) (hcounts : (stateCycles s.params f).isSome = true) :
      t.bus.tcnt = s.bus.tcnt := hb.tcnt (hfsm ▸ hcounts)
  have hidx {f : Fsm} (hfsm : s.bus.fsm = f) (hsends : sending f = true) : t.bus.idx = s.bus.idx :=
    hb.idx (hfsm ▸ hsends)
  have hrxr {f : Fsm} (hfsm : s.bus.fsm = f) (hreceives : receiving f = true) : t.bus.rxr = s.bus.rxr :=
    hb.rxr (hfsm ▸ hreceives)
  rw [hcycle]
  cases hrow with
  | idle hfsm => exact hgoes (.idle (hb.fsm.trans hfsm)) { hb with clkO := rfl, dOe := rfl, dO := nofun }
  | ready hfsm hrdy => exact hgoes (.ready (hb.fsm.trans hfsm) hrdy) (.driveOrTurn hb.clkO hb.att hb.cause hb.txf 0)
  | notReady hfsm hrdy => exact hfails (.notReady (hb.fsm.trans hfsm) hrdy) hb.att hb.txf
  | counts hn hgap hseen hlt =>
    have hcount := htcnt rfl (hn ▸ rfl)
    exact hgoes (.counts (by rwa [hb.fsm, hparams]) (by rwa [hb.fsm]) (by rwa [hb.fsm]) (by rwa [hcount]))
      { hb with tcnt := fun _ => congrArg (· + 1) hcount }
  | timesOut hseen hle =>
    have hcount := htcnt rfl (stateCycles_of_wait hseen ▸ rfl)
    exact hfails (b := countCycle s.bus) (b' := countCycle t.bus)
      (.timesOut (by rwa [hb.fsm]) (by rwa [hcount, hparams])) hb.att hb.txf
  | driven hfsm hle =>
    exact hgoes (.driven (hb.fsm.trans hfsm) (by rwa [htcnt hfsm rfl, hparams]))
      { hb with fsm := rfl, clkO := rfl, idx := fun _ => hidx hfsm rfl, tcnt := nofun, rxr := nofun }
  | strobed hfsm =>
    exact hgoes (.strobed (hb.fsm.trans hfsm))
      { hb with fsm := rfl, idx := fun _ => hidx hfsm rfl, tcnt := fun _ => rfl, rxr := nofun }
  | acked hfsm hrdy =>
    exact hgoes (.acked (hb.fsm.trans hfsm) hrdy)
      { hb with fsm := rfl, clkO := rfl, idx := fun _ => hidx hfsm rfl, tcnt := fun _ => rfl, rxr := nofun }
  | released hfsm hrdy =>
    refine hgoes (.released (hb.fsm.trans hfsm) hrdy) ?_
    rw [hidx hfsm rfl]
    exact .driveOrTurn (b := { countCycle s.bus with idx := s.bus.idx + 1 })
      (b' := { countCycle t.bus with idx := s.bus.idx + 1 }) hb.clkO hb.att hb.cause hb.txf _
  | turned hfsm =>
    exact hgoes (.turned (hb.fsm.trans hfsm))
      { hb with fsm := rfl, idx := nofun, tcnt := fun _ => rfl, rxr := fun _ => hrxr hfsm rfl }
  | sampled hfsm hrdy =>
    exact hgoes (.sampled (hb.fsm.trans hfsm) hrdy)
      { hb with fsm := rfl, clkO := rfl, idx := nofun, tcnt := fun _ => rfl
                rxr := fun _ => congrArg (· ++ [d]) (hrxr hfsm rfl) }
  | pulsed hfsm hle =>
    exact hgoes (.pulsed (hb.fsm.trans hfsm) (by rwa [htcnt hfsm rfl, hparams]))
      { hb with fsm := rfl, clkO := rfl, idx := nofun, tcnt := fun _ => rfl, rxr := fun _ => hrxr hfsm rfl }
  | received hfsm hrdy hdone =>
    exact hgoes (.received (hb.fsm.trans hfsm) hrdy (by rwa [hrxr hfsm rfl, hparams]))
      { hb with fsm := rfl, idx := nofun, tcnt := nofun, rxr := fun _ => hrxr hfsm rfl }
  | nextByte hfsm hrdy hdone =>
    exact hgoes (.nextByte (hb.fsm.trans hfsm) hrdy (by rwa [hrxr hfsm rfl, hparams]))
      { hb with fsm := rfl, idx := nofun, tcnt := fun _ => rfl, rxr := fun _ => hrxr hfsm rfl }
  | relayed hfsm hjudge =>
    have hreply := hrxr hfsm rfl
    have hinfo : xcvInfo t.bus t.bus.rxr = xcvInfo s.bus s.bus.rxr := by
      rw [xcvInfo, xcvInfo, hb.att, hb.cause, hreply]
    rw [(Row.relayed (p := t.params) (rdy := rdy) (d := d) (hb.fsm.trans hfsm) (hreply ▸ hjudge)).busCycle_eq]
    exact ⟨hparams, congrArg (statusCode .ok :: ·) hinfo,
      { hb with fsm := rfl, idx := nofun, tcnt := nofun, rxr := nofun }⟩
  | rejected hfsm hjudge =>
    exact hfails (.rejected (hb.fsm.trans hfsm) (by rwa [hrxr hfsm rfl])) hb.att hb.txf
  | gapCounts hfsm hlt =>
    have hcount := htcnt hfsm rfl
    exact hgoes (.gapCounts (hb.fsm.trans hfsm) (by rwa [hcount, hparams]))
      { hb with clkO := rfl, dOe := rfl, dO := nofun, tcnt := fun _ => congrArg (· + 1) hcount }
  | gapEnds hfsm hle =>
    exact hgoes (.gapEnds (hb.fsm.trans hfsm) (by rwa [htcnt hfsm rfl, hparams]))
      { hb with fsm := rfl, clkO := rfl, dOe := rfl, dO := nofun, idx := nofun, tcnt := nofun, rxr := nofun }

theorem SameTransfer.busRun {s t : State} (h : SameTransfer s t) (zs : List (Bool × Byte)) :
    SameTransfer (busRun zs s) (busRun zs t) := by
  induction zs generalizing s t with
  | nil => exact h
  | cons z zs ih => exact ih (h.busCycle z.1 z.2)

/-- Two blocks with the same parameters, idle lines and pending response start the same transfer (R215, row `IDLE`). -/
theorem sameTransfer_start {f : List Byte} {s1 s2 t1 t2 : State} (hparams : s1.params = s2.params)
    (hrsp : s1.cp.rsp = s2.cp.rsp) (hclk : s2.bus.clkO = s1.bus.clkO) (hoe1 : s1.bus.dOe = false)
    (hoe2 : s2.bus.dOe = false) (h1 : exec (.xcv f) s1 = .next t1) (h2 : exec (.xcv f) s2 = .next t2) :
    SameTransfer t1 t2 := by
  rw [exec_xcv] at h1 h2
  cases h1
  cases h2
  have hundriven : s1.bus.dOe ≠ true := by simp [hoe1]
  exact ⟨hparams.symm, hrsp.symm, rfl, hclk, hoe2.trans hoe1.symm, rfl, rfl, rfl, fun h => absurd h hundriven, nofun,
    nofun, nofun⟩

theorem SameTransfer.busData_eq {s t : State} (h : SameTransfer s t) : busData t = busData s := by
  obtain ⟨-, -, hb⟩ := h
  rw [busData, busData, hb.dOe]
  split
  · next hdriven => rw [hb.dO hdriven]
  · rfl

/-- Settles O53: the two transfers start alike (`sameTransfer_start`) and stay alike (`SameTransfer.busRun`). -/
theorem xcvForgetsEarlierTransfers : Obligations.XcvForgetsEarlierTransfers := by
  unfold Obligations.XcvForgetsEarlierTransfers
  intro f zs s1 s2 t1 t2 hparams hrsp hclk1 hclk2 hoe1 hoe2 h1 h2
  have h := (sameTransfer_start hparams hrsp (hclk2.trans hclk1.symm) hoe1 hoe2 h1 h2).busRun zs
  exact ⟨h.bus.fsm.symm, h.bus.clkO.symm, h.busData_eq.symm, h.rsp.symm⟩

end Sys2Proof.Machine

/-! A peer that is ready and acts at every first sample (44_bus_transport.md R216, R220, R230): one frame byte, one reply
byte, and the whole first attempt by induction on the frame and on the reply. -/

namespace Sys2Proof.Machine

/-- The first attempt at frame `f` with the clock line deasserted: no attempt has failed (R215, row `IDLE`). -/
structure FirstTry (f : List Byte) (b : Bus) : Prop where
  txf : b.txf = f
  att : b.att = 1
  cause : b.cause = 0x00
  clkO : b.clkO = true

/-- The first attempt at `f`, the frame sent and `got` received, with the data bus released. -/
structure Receives (f got : List Byte) (b : Bus) : Prop where
  firstTry : FirstTry f b
  dOe : b.dOe = false
  rxr : b.rxr = got

/-! ### One frame byte -/

/-- A byte of the frame is driven, strobed and acknowledged at once, and the next one follows (R216). -/
theorem busRun_promptSend {f : List Byte} {b : Bus} {k : Nat} {c : Byte} (s : State) (hp : s.params.Legal)
    (hb : FirstTry f b) (hk : f[k]? = some c) :
    ∃ b', FirstTry f b' ∧
      busRun (promptSend s.params) { s with bus := driveOrTurn k b } = { s with bus := driveOrTurn (k + 1) b' } := by
  obtain ⟨rfl, hatt, hcause, -⟩ := hb
  obtain ⟨-, -, -, -, -, -, -, hsetup, -, -⟩ := hp
  have hquiet := released_quiet s.params.setupCycles
  have hdriven := busRun_sDrive
    (s := { s with bus := { b with fsm := .sDrive, idx := k, dO := c, dOe := true, tcnt := 0 } })
    rfl rfl (hquiet.ne_nil hsetup) hquiet.length
  rw [promptSend, driveOrTurn_some hk, busRun_append, hdriven]
  exact ⟨{ b with fsm := .sWrel, clkO := true, dO := c, dOe := true, tcnt := 1, idx := k + 1 },
    ⟨rfl, hatt, hcause, rfl⟩, rfl⟩

/-- All bytes of the frame from byte `k` on. -/
theorem busRun_promptSends {f : List Byte} {s : State} (hp : s.params.Legal) (g : List Byte) {b : Bus} {k : Nat}
    (hb : FirstTry f b) (hg : f.drop k = g) :
    ∃ b', FirstTry f b' ∧ busRun (g.flatMap fun _ => promptSend s.params) { s with bus := driveOrTurn k b } =
      { s with bus := driveOrTurn (k + g.length) b' } := by
  induction g generalizing b k with
  | nil => exact ⟨b, hb, rfl⟩
  | cons c g ih =>
    have hk : f[k]? = some c := by rw [← List.head?_drop, hg]; rfl
    obtain ⟨b', hb', hfirst⟩ := busRun_promptSend s hp hb hk
    obtain ⟨b'', hb'', hrest⟩ := ih hb' (by rw [← List.tail_drop, hg]; rfl)
    refine ⟨b'', hb'', ?_⟩
    rw [List.flatMap_cons, busRun_append, hfirst, hrest, List.length_cons, Nat.add_right_comm, Nat.add_assoc]

/-! ### One reply byte -/

/-- `R_ACK` lasts ACK_PULSE_CYCLES, then the acknowledge ends (R220). -/
theorem busRun_rAck {s : State} {zs : List (Bool × Byte)} (hfsm : s.bus.fsm = .rAck) (htcnt : s.bus.tcnt = 0)
    (hne : zs ≠ []) (hlen : zs.length = s.params.ackPulseCycles) :
    busRun zs s = { s with bus := { s.bus with fsm := .rWrel, clkO := true, tcnt := 0 } } := by
  refine busRun_counted (s := s) (n := s.params.ackPulseCycles)
    (done := fun t => { t with bus := { t.bus with fsm := .rWrel, clkO := true, tcnt := 0 } })
    (fun z _ k => ?_) hne (by omega)
  have hfsm' : (atCount k s).bus.fsm = .rAck := hfsm
  rw [busCycle, hfsm']
  rfl

/-- A byte of the reply is strobed, sampled and acknowledged at once (R220, R222). -/
theorem busRun_promptReply {f got : List Byte} {b : Bus} (s : State) (hp : s.params.Legal) (x : Byte)
    (hb : Receives f got b) (hfsm : b.fsm = .rWstb) :
    ∃ b', Receives f (got ++ [x]) b' ∧ b'.fsm = (if replyDone s.params (got ++ [x]) then .eval else .rWstb) ∧
      busRun (promptReply s.params x) { s with bus := b } = { s with bus := b' } := by
  obtain ⟨⟨htxf, hatt, hcause, -⟩, hoe, rfl⟩ := hb
  obtain ⟨-, -, -, -, -, -, -, -, hack, -⟩ := hp
  have hpulse := released_quiet s.params.ackPulseCycles
  have hpulsed := busRun_rAck
    (s := { s with bus := { b with fsm := .rAck, rxr := b.rxr ++ [x], clkO := false, tcnt := 0 } })
    rfl rfl (hpulse.ne_nil hack) hpulse.length
  have hsampled : busCycle false x { s with bus := b } =
      { s with bus := { b with fsm := .rAck, rxr := b.rxr ++ [x], clkO := false, tcnt := 0 } } :=
    (Row.sampled (p := s.params) (d := x) hfsm rfl).busCycle_eq (s := { s with bus := b })
  rw [promptReply, busRun_cons, hsampled, busRun_append, hpulsed]
  by_cases hdone : replyDone s.params (b.rxr ++ [x]) = true
  · refine ⟨{ b with fsm := .eval, rxr := b.rxr ++ [x], clkO := true, tcnt := 1 },
      ⟨⟨htxf, hatt, hcause, rfl⟩, hoe, rfl⟩, (if_pos hdone).symm, ?_⟩
    exact (Row.received (p := s.params) (d := 0) rfl rfl hdone).busCycle_eq
      (s := { s with bus := { b with fsm := .rWrel, rxr := b.rxr ++ [x], clkO := true, tcnt := 0 } })
  · refine ⟨{ b with fsm := .rWstb, rxr := b.rxr ++ [x], clkO := true, tcnt := 0 },
      ⟨⟨htxf, hatt, hcause, rfl⟩, hoe, rfl⟩, (if_neg hdone).symm, ?_⟩
    exact (Row.nextByte (p := s.params) (d := 0) rfl rfl (Bool.eq_false_iff.mpr hdone)).busCycle_eq
      (s := { s with bus := { b with fsm := .rWrel, rxr := b.rxr ++ [x], clkO := true, tcnt := 0 } })

/-- The reply from after the bytes `got` on, up to its only ETX, which ends the receive (R222). -/
theorem busRun_promptReplies {f : List Byte} {s : State} (hp : s.params.Legal) (x : Byte) (z : List Byte)
    {got : List Byte} {b : Bus} (hb : Receives f got b) (hfsm : b.fsm = .rWstb)
    (hlen : (got ++ x :: z).length ≤ s.params.maxFrame) (hlast : (x :: z).getLast? = some 0x03)
    (honly : 0x03 ∉ (x :: z).dropLast) :
    ∃ b', Receives f (got ++ x :: z) b' ∧ b'.fsm = .eval ∧
      busRun ((x :: z).flatMap (promptReply s.params)) { s with bus := b } = { s with bus := b' } := by
  induction z generalizing x got b with
  | nil =>
    obtain ⟨b', hb', hfsm', hfirst⟩ := busRun_promptReply s hp x hb hfsm
    have hdone : replyDone s.params (got ++ [x]) = true := replyDone_iff.mpr (.inl (by simpa using hlast))
    rw [hdone] at hfsm'
    exact ⟨b', hb', hfsm', by simpa using hfirst⟩
  | cons y z ih =>
    obtain ⟨b', hb', hfsm', hfirst⟩ := busRun_promptReply s hp x hb hfsm
    rw [List.dropLast_cons_cons, List.mem_cons, not_or] at honly
    obtain ⟨hx, honly⟩ := honly
    have hmore : ¬ replyDone s.params (got ++ [x]) = true := fun h => by
      rcases replyDone_iff.mp h with hetx | hmax
      · rw [List.getLast?_append, List.getLast?_singleton] at hetx
        exact hx (Option.some.inj hetx).symm
      · simp only [List.length_append, List.length_cons, List.length_nil] at hmax hlen
        omega
    rw [if_neg hmore] at hfsm'
    rw [List.getLast?_cons_cons] at hlast
    obtain ⟨b'', hb'', hend, hrest⟩ := ih y hb' hfsm' (by simpa using hlen) hlast honly
    exact ⟨b'', by simpa using hb'', hend, by rw [List.flatMap_cons, busRun_append, hfirst, hrest]⟩

/-! ### The whole transfer -/

/-- Settles O47: the frame byte by byte (`busRun_promptSends`), the turnaround, the reply byte by byte
(`busRun_promptReplies`), and the reply check. -/
theorem promptPeerIsRelayed : Obligations.PromptPeerIsRelayed := by
  unfold Obligations.PromptPeerIsRelayed
  intro f z s s0 st e a node span hp hlen hlast honly hverdict hexec hclk hoe
  rw [exec_xcv] at hexec
  cases hexec
  obtain ⟨x, z, rfl⟩ : ∃ x z', z = x :: z' := List.exists_cons_of_ne_nil (by rintro rfl; cases hlast)
  have hready : busRun (quiet 1) { s with bus := { s.bus with fsm := .chkrdy, txf := f, att := 1, cause := 0x00 } } =
      { s with bus := driveOrTurn 0 { s.bus with fsm := .chkrdy, txf := f, att := 1, cause := 0x00 } } := rfl
  obtain ⟨b, hb, hsend⟩ := busRun_promptSends (f := f) hp f
    (b := { s.bus with fsm := .chkrdy, txf := f, att := 1, cause := 0x00 }) (k := 0) ⟨rfl, rfl, rfl, hclk⟩ rfl
  have hturn : driveOrTurn (0 + f.length) b = { b with fsm := .sTurn, dOe := false, rxr := [] } :=
    driveOrTurn_none (List.getElem?_eq_none (by rw [hb.txf]; omega))
  have hturned : busRun (quiet 1) { s with bus := { b with fsm := .sTurn, dOe := false, rxr := [] } } =
      { s with bus := { b with fsm := .rWstb, dOe := false, rxr := [], tcnt := 0 } } := rfl
  obtain ⟨b', hb', heval, hreceive⟩ := busRun_promptReplies hp x z
    (b := { b with fsm := .rWstb, dOe := false, rxr := [], tcnt := 0 }) (f := f) (got := [])
    ⟨⟨hb.txf, hb.att, hb.cause, hb.clkO⟩, rfl, rfl⟩ rfl hlen hlast honly
  obtain ⟨⟨-, hatt, hcause, hclk'⟩, hoe', hrxr⟩ := hb'
  rw [List.nil_append] at hrxr
  have hjudge : judgeReply b'.rxr = .reply b'.rxr :=
    judgeReply_eq_reply_iff.mpr ⟨rfl, _, _, _, _, _, hrxr ▸ hverdict⟩
  have hrelay : busRun (quiet 1) { s with bus := b' } = CycleEffect.relays.apply { s with bus := b' } :=
    (Row.relayed (p := s.params) (rdy := true) (d := 0) heval hjudge).busCycle_eq (s := { s with bus := b' })
  rw [promptPeer, busRun_append, busRun_append, busRun_append, busRun_append, hready, hsend, hturn, hturned, hreceive,
    hrelay]
  refine ⟨rfl, ?_, rfl, hclk', hoe'⟩
  simp only [CycleEffect.apply, respond_cp, xcvInfo, hatt, hcause, hrxr, lenList, lenByte]
  rfl

end Sys2Proof.Machine
